-- ==== Sys2Proof/Word.lean ====
section
/-! DEFINITION. The word types of the GF28-AES engine.

Every register of the window is one 32-bit word (R10, R51), a field element is one byte (R6), and
the register window holds 4096 bytes (R50), so an offset into it is 12 bits. -/

namespace Sys2Proof

/-- A register, a command word, a key word or a round-key word (R10, R51). -/
abbrev Word := BitVec 32

/-- A field element, an S-box byte or one byte of a word (R6, R15). -/
abbrev Byte := BitVec 8

/-- A byte offset in the 4096-byte register window (R50). -/
abbrev Offset := BitVec 12

end Sys2Proof
end

