-- ==== Sys2Proof/Syntax.lean ====
section
/-! DEFINITION. The commands of the engine: one constructor for each row of R75.

The immediates are held as R78 writes them in assembly: a signed term index for PCOEF, a natural
number for RCON and ARK. `WellFormed` says which of them a command word can carry. -/

namespace Sys2Proof

/-- A command (R75). The operands of format N are registers; format I adds one immediate (R74). -/
inductive Instr where
  /-- 0x00, R240. -/
  | nop
  /-- 0x10, R110: polynomial addition. -/
  | padd
  /-- 0x11, R111: carryless multiplication. -/
  | pmul
  /-- 0x12, R112: polynomial long division. -/
  | pmod
  /-- 0x13, R113: degree. -/
  | pdeg
  /-- 0x14, R114: coefficient at term index `idx`. -/
  | pcoef (idx : Int)
  /-- 0x20, R140: field addition. -/
  | gadd
  /-- 0x21, R141: field multiplication. -/
  | gmul
  /-- 0x22, R142: field inverse. -/
  | ginv
  /-- 0x30, R160: forward S-box. -/
  | sbox
  /-- 0x31, R161: inverse S-box. -/
  | isbox
  /-- 0x32, R162: affine transform. -/
  | aff
  /-- 0x33, R163: inverse affine transform. -/
  | iaff
  /-- 0x40, R180: RotWord. -/
  | rotw
  /-- 0x41, R181: SubWord. -/
  | subw
  /-- 0x42, R182: round constant `j`. -/
  | rcon (j : Nat)
  /-- 0x43, R183: key expansion. -/
  | kexp
  /-- 0x50, R210: SubBytes. -/
  | subb
  /-- 0x51, R211: ShiftRows. -/
  | shr
  /-- 0x52, R212: MixColumns. -/
  | mixc
  /-- 0x53, R213: AddRoundKey with round key `r`. -/
  | ark (r : Nat)
  /-- 0x54, R214: InvSubBytes. -/
  | isubb
  /-- 0x55, R215: InvShiftRows. -/
  | ishr
  /-- 0x56, R216: InvMixColumns. -/
  | imixc
  /-- 0x58, R217: encrypt one block. -/
  | enc
  /-- 0x59, R218: decrypt one block. -/
  | dec
  deriving DecidableEq, Repr

end Sys2Proof
end

