-- ==== Sys2Proof/WellFormed.lean ====
section
/-! DEFINITION. Which commands a command word can carry: the ranges of R74 and R78.

"An immediate outside its range is an assembly error" (R78). A well-formed command may still end in
an error when it runs (`PCOEF -1`, `RCON 0`): the legal range of R74 is checked at completion. -/

namespace Sys2Proof

/-- The immediate is in the range of R78. The commands of format N have nothing to check. -/
def Instr.wellFormed : Instr → Bool
  | .pcoef idx => decide (-128 ≤ idx) && decide (idx ≤ 127)
  | .rcon j => decide (j ≤ 255)
  | .ark r => decide (r ≤ 255)
  | .nop | .padd | .pmul | .pmod | .pdeg => true
  | .gadd | .gmul | .ginv => true
  | .sbox | .isbox | .aff | .iaff => true
  | .rotw | .subw | .kexp => true
  | .subb | .shr | .mixc | .isubb | .ishr | .imixc | .enc | .dec => true

/-- The command can be assembled (R78). -/
abbrev Instr.WellFormed (i : Instr) : Prop := i.wellFormed = true

end Sys2Proof
end

