-- ==== Sys2Proof/Decode.lean ====
section
/-! DEFINITION. Command words: the fields of R71, the decoder of R77, and an encoder written from
the same table (R75).

Decode is total on all 2^32 words: it gives one command, or names which clause of R76 makes the word
illegal. -/

namespace Sys2Proof

/-- Why a word is illegal: the three clauses of R76. Raised by `decode`, and the engine turns each of
them into IllegalCommand (code 8). -/
inductive DecodeReject where
  /-- An OP value not in the table of R75. -/
  | unknownOpcode
  /-- A listed OP with a non-zero MID field. -/
  | nonzeroMid
  /-- A format-N OP with a non-zero IMM8 field. -/
  | nonzeroImm
  deriving DecidableEq, Repr

/-- OP, bits [31:24] (R71). -/
def opField (w : Word) : Byte := w.extractLsb' 24 8

/-- MID, bits [23:8] (R71). -/
def midField (w : Word) : BitVec 16 := w.extractLsb' 8 16

/-- IMM8, bits [7:0] (R71). -/
def immField (w : Word) : Byte := w.extractLsb' 0 8

/-- Format N: bits [23:0] must be 0 (R72). -/
def decodeN (i : Instr) (w : Word) : Except DecodeReject Instr :=
  if midField w ≠ 0 then .error .nonzeroMid
  else if immField w ≠ 0 then .error .nonzeroImm
  else .ok i

/-- Format I: bits [23:8] must be 0 and IMM8 is the immediate (R73). -/
def decodeI (f : Byte → Instr) (w : Word) : Except DecodeReject Instr :=
  if midField w ≠ 0 then .error .nonzeroMid
  else .ok (f (immField w))

/-- The decoder of R77 over the opcode map of R75. PCOEF reads its immediate as `sext_32`, RCON and
ARK as `zext_32` (R74). -/
def decode (w : Word) : Except DecodeReject Instr :=
  match (opField w).toNat with
  | 0x00 => decodeN .nop w
  | 0x10 => decodeN .padd w
  | 0x11 => decodeN .pmul w
  | 0x12 => decodeN .pmod w
  | 0x13 => decodeN .pdeg w
  | 0x14 => decodeI (fun imm => .pcoef imm.toInt) w
  | 0x20 => decodeN .gadd w
  | 0x21 => decodeN .gmul w
  | 0x22 => decodeN .ginv w
  | 0x30 => decodeN .sbox w
  | 0x31 => decodeN .isbox w
  | 0x32 => decodeN .aff w
  | 0x33 => decodeN .iaff w
  | 0x40 => decodeN .rotw w
  | 0x41 => decodeN .subw w
  | 0x42 => decodeI (fun imm => .rcon imm.toNat) w
  | 0x43 => decodeN .kexp w
  | 0x50 => decodeN .subb w
  | 0x51 => decodeN .shr w
  | 0x52 => decodeN .mixc w
  | 0x53 => decodeI (fun imm => .ark imm.toNat) w
  | 0x54 => decodeN .isubb w
  | 0x55 => decodeN .ishr w
  | 0x56 => decodeN .imixc w
  | 0x58 => decodeN .enc w
  | 0x59 => decodeN .dec w
  | _ => .error .unknownOpcode

/-- The OP field of each command (R75). -/
def Instr.opcode : Instr → Byte
  | .nop => 0x00
  | .padd => 0x10
  | .pmul => 0x11
  | .pmod => 0x12
  | .pdeg => 0x13
  | .pcoef _ => 0x14
  | .gadd => 0x20
  | .gmul => 0x21
  | .ginv => 0x22
  | .sbox => 0x30
  | .isbox => 0x31
  | .aff => 0x32
  | .iaff => 0x33
  | .rotw => 0x40
  | .subw => 0x41
  | .rcon _ => 0x42
  | .kexp => 0x43
  | .subb => 0x50
  | .shr => 0x51
  | .mixc => 0x52
  | .ark _ => 0x53
  | .isubb => 0x54
  | .ishr => 0x55
  | .imixc => 0x56
  | .enc => 0x58
  | .dec => 0x59

/-- The IMM8 field of each command: 0 in format N (R72), `trunc_8` of the immediate in format I
(R73, R78). -/
def Instr.imm8 : Instr → Byte
  | .pcoef idx => BitVec.ofInt 8 idx
  | .rcon j => BitVec.ofNat 8 j
  | .ark r => BitVec.ofNat 8 r
  | .nop | .padd | .pmul | .pmod | .pdeg => 0
  | .gadd | .gmul | .ginv => 0
  | .sbox | .isbox | .aff | .iaff => 0
  | .rotw | .subw | .kexp => 0
  | .subb | .shr | .mixc | .isubb | .ishr | .imixc | .enc | .dec => 0

/-- The command word: OP, sixteen zero bits, IMM8 (R71). -/
def encode (i : Instr) : Word := i.opcode ++ 0#16 ++ i.imm8

/-- What the decoder reads from an opcode-table row's bits `w`. The whole command is one 32-bit word
(R70), so the bits at and above `nbits` are 0 and no row is wider than 32 bits. -/
def decodeTableWord (nbits w : Nat) : Option Instr :=
  if nbits ≤ 32 then (decode (BitVec.ofNat 32 (w % 2 ^ nbits))).toOption else none

end Sys2Proof
end

