-- ==== Sys2Proof/Config.lean ====
section
/-! DEFINITION. The open parameters of R9, as constants without a body: nothing can be proved about
their values.

`LAT(op)` of R9 has no constant here. It shows only in which host accesses come before a command's
completion step (R285, R291), and that is data in `State.schedule` (log entry 3). `RK_RESET` is the
argument of `State.resetWith` (log entry 1). -/

namespace Sys2Proof.Config

/-- `BUSY_READ` (R9, R62, U3): what the `n`-th read of an unspecified register returns. The step
applies it to a counter of `State`, so every such read is a draw of its own (log entry 2). -/
opaque busyRead : Nat → Word

/-- The number of the 4 KiB page the window stands at (R50, U1; log entry 7). -/
opaque enginePage : Nat

/-- `ENGINE_BASE`: the system byte address of offset 0x000, 4 KiB aligned (R9, R50). -/
def engineBase : Nat := 4096 * enginePage

/-- The system byte address at which a host reaches an offset of the window (R50). -/
def systemAddress (off : Offset) : Nat := engineBase + off.toNat

end Sys2Proof.Config
end

