-- ==== Sys2Proof/Machine/State.lean ====
section
/-! DEFINITION. The state of the engine, as plain data.

The architectural registers are those of the map in 10_state.md section 2, the round-key RAM (R34)
and the schedule descriptor (R35). ID is hard-wired (R21), so it has no field. Three fields are the
model's own: the turns still to come, the responses the host has got, and the counter of draws. -/

namespace Sys2Proof.Machine

/-- The error codes of R251 that have a name. Raised by a command's error completion (R253), which is
a next state; no run stops on one. -/
inductive EngineError where
  /-- Code 1. Reserved: no command raises it (R100, U13). -/
  | invalidCoefficient
  /-- Code 2: PCOEF with a negative index, RCON with 0. -/
  | invalidIndex
  /-- Code 3: PMOD with divisor 0. -/
  | divisionByZero
  /-- Code 4: KEXP with a KEYLEN other than 16, 24 and 32. -/
  | invalidKeyLength
  /-- Code 5: ENC and DEC with a BLKLEN other than 16. -/
  | invalidBlockLength
  /-- Code 8: a word that matches no row of R75. -/
  | illegalCommand
  /-- Code 9: ARK, ENC and DEC with KSV = 0. -/
  | noKeySchedule
  /-- Code 10: ARK with a round above NR. -/
  | badRound
  deriving DecidableEq, Repr

/-- The three key-size variants (R7). -/
inductive KeySize where
  | aes128
  | aes192
  | aes256
  deriving DecidableEq, Repr

/-- The width of a host access (R53). Only 32 bits is legal. -/
inductive AccessWidth where
  | w8
  | w16
  | w32
  | w64
  deriving DecidableEq, Repr

/-- One host access to the register window (R14, R50). Accesses carry no host's name: the engine does
not tell hosts apart (R64). -/
inductive HostAccess where
  /-- `RD off` in the given width. -/
  | read (width : AccessWidth) (off : Offset)
  /-- `WR off, data` in the given width. `data` matters only at 32 bits: the bus refuses the other
  widths whatever they carry (R53). -/
  | write (width : AccessWidth) (off : Offset) (data : Word)
  deriving DecidableEq, Repr

/-- What the bus answers a host access with (R53, R260). -/
inductive BusResponse where
  /-- The answer to a read: was it a bus error, and the data. -/
  | read (busError : Bool) (data : Word)
  /-- The answer to a write: was it a bus error. -/
  | write (busError : Bool)
  deriving DecidableEq, Repr

/-- Which agent steps next (R20): the host with one access, or the engine with the completion of the
command in flight. -/
inductive Turn where
  | host (access : HostAccess)
  | engine
  deriving DecidableEq, Repr

/-- A register of the window (10_state.md section 2). -/
inductive WindowReg where
  | id
  | status
  | kstat
  | cmd
  | opa
  | opb
  | resl
  | resh
  | keylen
  | blklen
  | state (c : Fin 4)
  | key (k : Fin 8)
  | rkw (i : Fin 60)
  deriving DecidableEq, Repr

/-- The state of the engine. -/
structure State where
  /-- STATUS.BUSY, and the in-flight flag (R22, R36). -/
  busy : Bool
  /-- STATUS.ERR, sticky (R22). -/
  err : Bool
  /-- STATUS.OVR, sticky (R22). -/
  ovr : Bool
  /-- STATUS.LASTERR (R22): `none` is code 0, success (R251). -/
  lastErr : Option EngineError
  /-- The schedule descriptor behind KSTAT (R23, R35): `none` is KSV = 0 with NK = NR = 0, and
  `some k` is KSV = 1 with the NK and NR of `k`. -/
  ksched : Option KeySize
  /-- CMD: the last accepted word (R24). -/
  cmd : Word
  /-- OPA (R25). -/
  opa : Word
  /-- OPB (R26). -/
  opb : Word
  /-- RESL (R27). -/
  resl : Word
  /-- RESH (R28). -/
  resh : Word
  /-- KEYLEN[7:0]; bits [31:8] read as zero (R29). -/
  keylen : Byte
  /-- BLKLEN[7:0]; bits [31:8] read as zero (R30). -/
  blklen : Byte
  /-- STATE0..STATE3, one column each (R31). -/
  state : Vector Word 4
  /-- KEY0..KEY7 (R32). -/
  key : Vector Word 8
  /-- The round-key RAM RK[0..59] (R34). -/
  rk : Vector Word 60
  /-- The model's own: the turns still to come, the next one first (log entry 3). -/
  schedule : List Turn
  /-- The model's own: the bus responses the host has got, the newest first (log entry 4). -/
  responses : List BusResponse
  /-- The model's own: how many unspecified reads have drawn a value (log entry 2). -/
  draws : Nat
  deriving DecidableEq, Repr

/-- Why a step stops with a fault: never. The spec gives every access and every command word an
outcome after which the engine goes on (R53, R76, R250), so the type has no constructor; nothing
raises it, which is safe. -/
inductive Fault where
  deriving DecidableEq, Repr

/-- Why a step is refused. -/
inductive Refusal where
  /-- An instruction that has no meaning yet. Raised by `exec`'s refused arms only, of which there is
  none now. Safe: the machine stops where the hardware goes on. -/
  | notModelled (mnemonic : String)
  deriving DecidableEq, Repr

/-- The state at the release of reset when the round-key RAM holds `rkReset` (R40, R281, R283). Every
register is 0 and no command is in flight. -/
def State.resetWith (rkReset : Vector Word 60) : State where
  busy := false
  err := false
  ovr := false
  lastErr := none
  ksched := none
  cmd := 0
  opa := 0
  opb := 0
  resl := 0
  resh := 0
  keylen := 0
  blklen := 0
  state := Vector.replicate 4 0
  key := Vector.replicate 8 0
  rk := rkReset
  schedule := []
  responses := []
  draws := 0

/-- The machine right after reset (R281). DESIGN CHOICE (log entry 1): `RK_RESET` is 60 zero words,
which U4 allows because no rule shows it. -/
def State.reset : State := State.resetWith (Vector.replicate 60 0)

end Sys2Proof.Machine
end

