-- ==== Sys2Proof/Machine/Operands.lean ====
section
/-! DEFINITION. The operand forms of the commands: bytes of a word, the byte grid of STATE, the key
words, a round key, and the key-size variants. -/

namespace Sys2Proof.Machine

/-- Byte `k` of a word: bits [31-8k:24-8k], so byte 0 is the most significant (R15, R52). -/
def byteOf (w : Word) (k : Fin 4) : Byte := w.extractLsb' (24 - 8 * k.val) 8

/-- `word(b0, b1, b2, b3)`, the inverse of `byteOf` (R15). -/
def wordOf (b0 b1 b2 b3 : Byte) : Word := b0 ++ b1 ++ b2 ++ b3

/-- The word whose byte `k` is `f k` (R15). -/
def wordOfBytes (f : Fin 4 → Byte) : Word := wordOf (f 0) (f 1) (f 2) (f 3)

/-- `s(r, c)`: byte `r` of STATE<c> (R16). -/
def grid (st : Vector Word 4) (r c : Fin 4) : Byte := byteOf st[c] r

/-- The STATE whose `s(r, c)` is `f r c` (R16, R31). -/
def ofGrid (f : Fin 4 → Fin 4 → Byte) : Vector Word 4 :=
  Vector.ofFn fun c => wordOfBytes fun r => f r c

/-- `in[i]`: byte `i` of the 16-byte block in STATE, `s(r, c) = in[r + 4c]` (R16, R31). -/
def blockByte (st : Vector Word 4) (i : Fin 16) : Byte :=
  grid st ⟨i.val % 4, by omega⟩ ⟨i.val / 4, by omega⟩

/-- OPA[7:0], the operand of the field and S-box commands; bits [31:8] are ignored (R25, D14). -/
def opaByte (s : State) : Byte := s.opa.extractLsb' 0 8

/-- OPB[7:0], the second operand of GADD and GMUL; bits [31:8] are ignored (R26, D14). -/
def opbByte (s : State) : Byte := s.opb.extractLsb' 0 8

/-- `Nk`, the number of words of the cipher key (R7, R173). -/
def KeySize.nk : KeySize → Nat
  | .aes128 => 4
  | .aes192 => 6
  | .aes256 => 8

/-- `Nr`, the number of rounds (R7, R173). -/
def KeySize.nr : KeySize → Nat
  | .aes128 => 10
  | .aes192 => 12
  | .aes256 => 14

/-- The variant of a key length in bytes; every other length fails (R173). -/
def keySizeOf (keyBytes : Byte) : Option KeySize :=
  if keyBytes = 16 then some .aes128
  else if keyBytes = 24 then some .aes192
  else if keyBytes = 32 then some .aes256
  else none

/-- KEY0..KEY<Nk-1>, the words KEXP reads (R32, R183). -/
def keyWords (s : State) (k : KeySize) : List Word := s.key.toList.take k.nk

/-- `RK[i]` (R34). Every use has `i ≤ 4 * 14 + 3 = 59`, so the default is never read. -/
def rkWord (rk : Vector Word 60) (i : Nat) : Word := rk[i]?.getD 0

/-- KSV (R23, R35). -/
def State.ksv (s : State) : Bool := s.ksched.isSome

/-- NK: 4, 6 or 8, and 0 when KSV = 0 (R23, R35). -/
def State.nk (s : State) : Nat := (s.ksched.map KeySize.nk).getD 0

/-- NR: 10, 12 or 14, and 0 when KSV = 0 (R23, R35). -/
def State.nr (s : State) : Nat := (s.ksched.map KeySize.nr).getD 0

end Sys2Proof.Machine
end

