-- ==== Sys2Proof/Machine/Flags.lean ====
section
/-! DEFINITION. The flags: the code of LASTERR, the words STATUS and KSTAT, and what a write to
STATUS clears. The engine has no condition codes (R38). -/

namespace Sys2Proof.Machine

/-- The code of each named error (R251). Codes 6, 7 and 11-15 are reserved and never written. -/
def EngineError.code : EngineError → BitVec 4
  | .invalidCoefficient => 1
  | .invalidIndex => 2
  | .divisionByZero => 3
  | .invalidKeyLength => 4
  | .invalidBlockLength => 5
  | .illegalCommand => 8
  | .noKeySchedule => 9
  | .badRound => 10

/-- STATUS.LASTERR: 0 for success, else the code (R22, R251). -/
def lastErrCode : Option EngineError → BitVec 4
  | none => 0
  | some e => e.code

/-- STATUS as the host reads it: BUSY [0], ERR [1], OVR [2], LASTERR [7:4], the rest 0 (R22). -/
def statusWord (s : State) : Word :=
  0#24 ++ lastErrCode s.lastErr ++ 0#1 ++ BitVec.ofBool s.ovr ++ BitVec.ofBool s.err ++
    BitVec.ofBool s.busy

/-- KSTAT as the host reads it: KSV [0], NK [11:8], NR [19:16], the rest 0 (R23). -/
def kstatWord (s : State) : Word :=
  0#12 ++ BitVec.ofNat 4 s.nr ++ 0#4 ++ BitVec.ofNat 4 s.nk ++ 0#7 ++ BitVec.ofBool s.ksv

/-- A write to STATUS clears ERR if bit 1 is 1 and OVR if bit 2 is 1; the other bits are read-only or
reserved (R22, R54, R55, R56, R258). -/
def clearFlags (data : Word) (s : State) : State :=
  { s with err := s.err && !data.getLsbD 1, ovr := s.ovr && !data.getLsbD 2 }

end Sys2Proof.Machine
end

