-- ==== Sys2Proof/Machine/Ops.lean ====
section
/-! DEFINITION. The shared operations: the two completions of a command, the result registers, the
register window, and one host access to it.

The engine has no traps (R250). What stands in the place of taking an exception is the error
completion `raise` (R253); what stands in the place of the return is the host's acknowledgement, a
write to STATUS (R258, `clearFlags`). -/

namespace Sys2Proof.Machine

/-! ### Completions -/

/-- Success completion, applied after the command's register writes: LASTERR ← 0, BUSY ← 0, ERR and
OVR unchanged (R254). -/
def complete (s : State) : State := { s with lastErr := none, busy := false }

/-- Error completion with the code of `e`: LASTERR ← e, ERR ← 1, BUSY ← 0, nothing else (R253). -/
def raise (e : EngineError) (s : State) : State :=
  { s with lastErr := some e, err := true, busy := false }

/-- The command ends in success, its register writes being those of `s` (R254). -/
def succeed (s : State) : Host.Outcome State Fault Refusal := .next (complete s)

/-- The command ends in the error `e` (R253). -/
def fail (e : EngineError) (s : State) : Host.Outcome State Fault Refusal := .next (raise e s)

/-! ### Result registers -/

/-- RESL ← `lo`, RESH ← `hi` (R27, R28). -/
def writeResult (lo hi : Word) (s : State) : State := { s with resl := lo, resh := hi }

/-- RESL ← `zext_32(b)`, RESH ← 0: the result of a field or S-box command. -/
def writeByteResult (b : Byte) (s : State) : State := writeResult (b.setWidth 32) 0 s

/-- STATE0..STATE3 ← `st`; RESL and RESH stay (R27, R31). -/
def writeState (st : Vector Word 4) (s : State) : State := { s with state := st }

/-! ### The register window -/

/-- The constant of the ID register, the bytes "GF28" (R21). -/
def idValue : Word := 0x47463238

/-- The register that an offset names, if it is aligned and not reserved (10_state.md section 2,
R53). -/
def regAt (off : Offset) : Option WindowReg :=
  if off.toNat % 4 ≠ 0 then none
  else
    let i := off.toNat / 4
    match i with
    | 0 => some .id
    | 1 => some .status
    | 2 => some .kstat
    | 3 => some .cmd
    | 4 => some .opa
    | 5 => some .opb
    | 6 => some .resl
    | 7 => some .resh
    | 8 => some .keylen
    | 9 => some .blklen
    | _ =>
      if 12 ≤ i ∧ i < 16 then some (.state (Fin.ofNat 4 (i - 12)))
      else if 16 ≤ i ∧ i < 24 then some (.key (Fin.ofNat 8 (i - 16)))
      else if 64 ≤ i ∧ i < 124 then some (.rkw (Fin.ofNat 60 (i - 64)))
      else none

/-- The offset of a register (10_state.md section 2). -/
def WindowReg.offset : WindowReg → Offset
  | .id => 0x000
  | .status => 0x004
  | .kstat => 0x008
  | .cmd => 0x00C
  | .opa => 0x010
  | .opb => 0x014
  | .resl => 0x018
  | .resh => 0x01C
  | .keylen => 0x020
  | .blklen => 0x024
  | .state c => BitVec.ofNat 12 (0x030 + 4 * c.val)
  | .key k => BitVec.ofNat 12 (0x040 + 4 * k.val)
  | .rkw i => BitVec.ofNat 12 (0x100 + 4 * i.val)

/-- The register a legal access reaches: 32 bits wide, aligned, at an offset that names a register.
Every other access is a bus error (R53). -/
def legalTarget (width : AccessWidth) (off : Offset) : Option WindowReg :=
  match width with
  | .w32 => regAt off
  | .w8 | .w16 | .w64 => none

/-- What a register holds, as a read while idle returns it (R21-R33, R55). -/
def readReg (reg : WindowReg) (s : State) : Word :=
  match reg with
  | .id => idValue
  | .status => statusWord s
  | .kstat => kstatWord s
  | .cmd => s.cmd
  | .opa => s.opa
  | .opb => s.opb
  | .resl => s.resl
  | .resh => s.resh
  | .keylen => s.keylen.setWidth 32
  | .blklen => s.blklen.setWidth 32
  | .state c => s.state[c]
  | .key k => s.key[k]
  | .rkw i => if s.ksv then s.rk[i] else 0

/-- The registers a running command may be changing: a read of one while BUSY = 1 is unspecified
(R62). -/
def WindowReg.unspecifiedWhileBusy : WindowReg → Bool
  | .resl | .resh | .state _ | .kstat | .rkw _ => true
  | .id | .status | .cmd | .opa | .opb | .keylen | .blklen | .key _ => false

/-- A CMD write while idle: the word is stored and BUSY rises (R24). -/
def accept (w : Word) (s : State) : State := { s with cmd := w, busy := true }

/-- A legal write while BUSY = 0. Read-only registers ignore it (R54), reserved bits ignore theirs
(R55), a CMD write accepts a command (R24) and a STATUS write clears flags (R56). -/
def writeReg (reg : WindowReg) (data : Word) (s : State) : State :=
  match reg with
  | .id | .kstat | .resl | .resh | .rkw _ => s
  | .status => clearFlags data s
  | .cmd => accept data s
  | .opa => { s with opa := data }
  | .opb => { s with opb := data }
  | .keylen => { s with keylen := data.extractLsb' 0 8 }
  | .blklen => { s with blklen := data.extractLsb' 0 8 }
  | .state c => { s with state := s.state.set c data }
  | .key k => { s with key := s.key.set k data }

/-- The bus answers the host. -/
def respond (r : BusResponse) (s : State) : State := { s with responses := r :: s.responses }

/-- A read that R62 leaves unspecified: a fresh draw of `BUSY_READ`. -/
def busyRead (s : State) : State :=
  respond (.read false (Config.busyRead s.draws)) { s with draws := s.draws + 1 }

/-- A host read: a bus error returns 0 and changes nothing (R53); otherwise the register's value,
or a draw where R62 says so. Reads have no side effects (R56). -/
def hostRead (width : AccessWidth) (off : Offset) (s : State) : State :=
  match legalTarget width off with
  | none => respond (.read true 0) s
  | some reg =>
    if s.busy && reg.unspecifiedWhileBusy then busyRead s
    else respond (.read false (readReg reg s)) s

/-- A host write: a bus error changes nothing (R53); a legal write while BUSY = 1 is dropped and sets
OVR, and completes normally on the bus (R61, R260). -/
def hostWrite (width : AccessWidth) (off : Offset) (data : Word) (s : State) : State :=
  match legalTarget width off with
  | none => respond (.write true) s
  | some reg =>
    if s.busy then respond (.write false) { s with ovr := true }
    else respond (.write false) (writeReg reg data s)

/-- One host access (R20, R57, R58). -/
def hostAccess (a : HostAccess) (s : State) : State :=
  match a with
  | .read width off => hostRead width off s
  | .write width off data => hostWrite width off data s

/-! ### What the outside world does -/

/-- Further turns are added behind those still to come. -/
def State.submit (turns : List Turn) (s : State) : State :=
  { s with schedule := s.schedule ++ turns }

/-- The effect of the reset input (R280, R282, R283): every register takes its reset value, a command
in flight is abandoned, and the round-key RAM holds some `rkReset`. No step of `step` does this: "A
model ... does not model the reset input itself" (R280; log entry 5). -/
def applyReset (rkReset : Vector Word 60) (s : State) : State :=
  { State.resetWith rkReset with
    schedule := s.schedule, responses := s.responses, draws := s.draws }

end Sys2Proof.Machine
end

