-- ==== Sys2Proof/Machine/Control.lean ====
section
/-! DEFINITION. The engine-control command (46_engine_control.md). -/

namespace Sys2Proof.Machine

/-- NOP (R240): it completes and changes nothing else. -/
def execNop (s : State) : Host.Outcome State Fault Refusal := succeed s

end Sys2Proof.Machine
end

