-- ==== Sys2Proof/Machine/Polynomial.lean ====
section
/-! DEFINITION. The polynomial commands (41_polynomial.md). A polynomial is a natural number whose
bit `i` is the coefficient of x^i (R100). -/

namespace Sys2Proof.Machine

/-- The degree: -1 for the zero polynomial, else the highest set bit (R101). -/
def pdeg (p : Nat) : Int := if p = 0 then -1 else (p.log2 : Int)

/-- XOR over the `i < n` with `b[i] = 1` of `a << i` (R102). -/
def clmulBelow (a b : Nat) : Nat → Nat
  | 0 => 0
  | n + 1 => clmulBelow a b n ^^^ (if b.testBit n then a <<< n else 0)

/-- Carryless multiplication (R102): no bit of `b` stands above `b.log2`. -/
def clmul (a b : Nat) : Nat := clmulBelow a b (b.log2 + 1)

/-- The loop of R103 with current remainder `r` and quotient `q`. Both `r` and `d` are non-zero where
their degrees are compared, so `log2` is `pdeg` there. `fuel` bounds the passes: each one lowers the
degree of `r`. -/
def pmodLoop (d : Nat) : Nat → Nat → Nat → Nat × Nat
  | 0, r, q => (r, q)
  | fuel + 1, r, q =>
    if r = 0 then (r, q)
    else if r.log2 < d.log2 then (r, q)
    else
      let sh := r.log2 - d.log2
      pmodLoop d fuel (r ^^^ (d <<< sh)) (q ||| (1 <<< sh))

/-- Polynomial long division: remainder and quotient of `a` by a non-zero `d` (R103). -/
def pmod (a d : Nat) : Nat × Nat := pmodLoop d (a.log2 + 1) a 0

/-- The coefficient of x^idx (R104). -/
def coeff (p : Nat) (idx : Nat) : Bool := p.testBit idx

/-- PADD (R110). -/
def execPadd (s : State) : Host.Outcome State Fault Refusal :=
  succeed (writeResult (s.opa ^^^ s.opb) 0 s)

/-- PMUL (R111): the 64-bit product in {RESH, RESL}. -/
def execPmul (s : State) : Host.Outcome State Fault Refusal :=
  let p := clmul s.opa.toNat s.opb.toNat
  succeed (writeResult (BitVec.ofNat 32 p) (BitVec.ofNat 32 (p >>> 32)) s)

/-- PMOD (R112): remainder in RESL, quotient in RESH. -/
def execPmod (s : State) : Host.Outcome State Fault Refusal :=
  if s.opb = 0 then fail .divisionByZero s
  else
    let rq := pmod s.opa.toNat s.opb.toNat
    succeed (writeResult (BitVec.ofNat 32 rq.1) (BitVec.ofNat 32 rq.2) s)

/-- PDEG (R113): the degree in 32-bit two's complement. -/
def execPdeg (s : State) : Host.Outcome State Fault Refusal :=
  succeed (writeResult (BitVec.ofInt 32 (pdeg s.opa.toNat)) 0 s)

/-- PCOEF (R114): an index above 31 is beyond any held degree and gives 0. -/
def execPcoef (idx : Int) (s : State) : Host.Outcome State Fault Refusal :=
  if idx < 0 then fail .invalidIndex s
  else if coeff s.opa.toNat idx.toNat then succeed (writeResult 1 0 s)
  else succeed (writeResult 0 0 s)

end Sys2Proof.Machine
end

