-- ==== Sys2Proof/Machine/Field.lean ====
section
/-! DEFINITION. The field commands (42_field.md): GF(2^8) modulo x^8 + x^4 + x^3 + x + 1. -/

namespace Sys2Proof.Machine

/-- The modulus, bit pattern `1 0001 1011` (R130). -/
def fieldModulus : Nat := 0x11B

/-- Field multiplication: the product reduced by the modulus, cut to 8 bits (R131). -/
def gmul (a b : Byte) : Byte :=
  BitVec.ofNat 8 (pmod (clmul a.toNat b.toNat) fieldModulus).1

/-- Field squaring. -/
def gsquare (a : Byte) : Byte := gmul a a

/-- The field inverse with `ginv(0) = 0`. "For a != 0, `ginv(a) = a^254` in the field" (R132): the
powers 2, 4, 8, ..., 128 multiplied together. "Any method that gives this function is conforming";
`Laws/Field.lean` proves that it is the inverse (log entry 10). -/
def ginv (a : Byte) : Byte :=
  let a2 := gsquare a
  let a4 := gsquare a2
  let a8 := gsquare a4
  let a16 := gsquare a8
  let a32 := gsquare a16
  let a64 := gsquare a32
  let a128 := gsquare a64
  gmul (gmul (gmul (gmul (gmul (gmul a2 a4) a8) a16) a32) a64) a128

/-- GADD (R140). -/
def execGadd (s : State) : Host.Outcome State Fault Refusal :=
  succeed (writeByteResult (opaByte s ^^^ opbByte s) s)

/-- GMUL (R141). -/
def execGmul (s : State) : Host.Outcome State Fault Refusal :=
  succeed (writeByteResult (gmul (opaByte s) (opbByte s)) s)

/-- GINV (R142): the zero operand is no error. -/
def execGinv (s : State) : Host.Outcome State Fault Refusal :=
  succeed (writeByteResult (ginv (opaByte s)) s)

end Sys2Proof.Machine
end

