-- ==== Sys2Proof/Machine/Sbox.lean ====
section
/-! DEFINITION. The S-box commands (43_sbox.md). -/

namespace Sys2Proof.Machine

/-- Rotate a byte right by `n`: bit `i` of the result is bit `(i + n) mod 8` of `b`. -/
def rotrByte (b : Byte) (n : Nat) : Byte := b.rotateRight n

/-- The affine transform (R150): `b'[i] = b[i] ^ b[i+4] ^ b[i+5] ^ b[i+6] ^ b[i+7] ^ c[i]`, indices
mod 8, with `c = 0x63`. -/
def aff (b : Byte) : Byte :=
  b ^^^ rotrByte b 4 ^^^ rotrByte b 5 ^^^ rotrByte b 6 ^^^ rotrByte b 7 ^^^ 0x63

/-- The inverse affine transform (R151): `b'[i] = b[i+2] ^ b[i+5] ^ b[i+7] ^ d[i]`, indices mod 8,
with `d = 0x05`. -/
def iaff (b : Byte) : Byte :=
  rotrByte b 2 ^^^ rotrByte b 5 ^^^ rotrByte b 7 ^^^ 0x05

/-- The forward S-box (R152). -/
def sbox (b : Byte) : Byte := aff (ginv b)

/-- The inverse S-box (R153). -/
def isbox (b : Byte) : Byte := ginv (iaff b)

/-- SBOX (R160). -/
def execSbox (s : State) : Host.Outcome State Fault Refusal :=
  succeed (writeByteResult (sbox (opaByte s)) s)

/-- ISBOX (R161). -/
def execIsbox (s : State) : Host.Outcome State Fault Refusal :=
  succeed (writeByteResult (isbox (opaByte s)) s)

/-- AFF (R162). -/
def execAff (s : State) : Host.Outcome State Fault Refusal :=
  succeed (writeByteResult (aff (opaByte s)) s)

/-- IAFF (R163). -/
def execIaff (s : State) : Host.Outcome State Fault Refusal :=
  succeed (writeByteResult (iaff (opaByte s)) s)

end Sys2Proof.Machine
end

