-- ==== Sys2Proof/Machine/KeySchedule.lean ====
section
/-! DEFINITION. The key-schedule commands (44_key_schedule.md). -/

namespace Sys2Proof.Machine

/-- RotWord: `rotl_32(w, 8)`, so `[a0, a1, a2, a3]` becomes `[a1, a2, a3, a0]` (R170). -/
def rotw (w : Word) : Word := w.rotateLeft 8

/-- SubWord: the S-box on each byte (R171). -/
def subw (w : Word) : Word := wordOfBytes fun k => sbox (byteOf w k)

/-- `x^n` in the field (R172). -/
def xpow : Nat → Byte
  | 0 => 0x01
  | n + 1 => gmul (xpow n) 0x02

/-- `rcon(j)` for `j ≥ 1`: `x^(j-1)` in the top byte (R172). -/
def rcon (j : Nat) : Word := wordOf (xpow (j - 1)) 0 0 0

/-- Word `i` of the expansion, `i ≥ Nk` being the number of words in `w` so far (R174). -/
def nextKeyWord (nk : Nat) (w : List Word) : Word :=
  let i := w.length
  let temp := w.getD (i - 1) 0
  let temp :=
    if i % nk = 0 then subw (rotw temp) ^^^ rcon (i / nk)
    else if 6 < nk ∧ i % nk = 4 then subw temp
    else temp
  w.getD (i - nk) 0 ^^^ temp

/-- `n` more words (R174). -/
def extendKey (nk : Nat) : Nat → List Word → List Word
  | 0, w => w
  | n + 1, w => extendKey nk n (w ++ [nextKeyWord nk w])

/-- The key expansion: `4 * (Nr + 1)` words, the first `Nk` of them the key (R174). -/
def keyexp (key : List Word) (nk nr : Nat) : List Word :=
  extendKey nk (4 * (nr + 1) - nk) key

/-- What KEXP writes to the round-key RAM: the schedule, and 0 above it (R183). -/
def scheduleRam (w : List Word) (nr : Nat) : Vector Word 60 :=
  Vector.ofFn fun i => if i.val < 4 * (nr + 1) then w.getD i.val 0 else 0

/-- ROTW (R180). -/
def execRotw (s : State) : Host.Outcome State Fault Refusal :=
  succeed (writeResult (rotw s.opa) 0 s)

/-- SUBW (R181). -/
def execSubw (s : State) : Host.Outcome State Fault Refusal :=
  succeed (writeResult (subw s.opa) 0 s)

/-- RCON (R182). -/
def execRcon (j : Nat) (s : State) : Host.Outcome State Fault Refusal :=
  if j = 0 then fail .invalidIndex s else succeed (writeResult (rcon j) 0 s)

/-- KEXP (R183): a failure leaves the schedule held before. -/
def execKexp (s : State) : Host.Outcome State Fault Refusal :=
  match keySizeOf s.keylen with
  | none => fail .invalidKeyLength s
  | some k =>
    succeed { s with rk := scheduleRam (keyexp (keyWords s k) k.nk k.nr) k.nr, ksched := some k }

end Sys2Proof.Machine
end

