-- ==== Sys2Proof/Machine/RoundTransform.lean ====
section
/-! DEFINITION. The round-transform commands (45_round_transform.md). Row and column indices are in
`Fin 4`, whose addition and subtraction are the `mod 4` of R202, R203 and R205. -/

namespace Sys2Proof.Machine

/-- SubBytes (R201). -/
def subBytes (st : Vector Word 4) : Vector Word 4 := ofGrid fun r c => sbox (grid st r c)

/-- InvSubBytes (R201). -/
def invSubBytes (st : Vector Word 4) : Vector Word 4 := ofGrid fun r c => isbox (grid st r c)

/-- ShiftRows: `s'(r, c) = s(r, (c + r) mod 4)` (R202). -/
def shiftRows (st : Vector Word 4) : Vector Word 4 := ofGrid fun r c => grid st r (c + r)

/-- InvShiftRows: `s'(r, c) = s(r, (c - r) mod 4)` (R202). -/
def invShiftRows (st : Vector Word 4) : Vector Word 4 := ofGrid fun r c => grid st r (c - r)

/-- `m = [02, 03, 01, 01]`, the first row of the MixColumns matrix (R203). -/
def mixCoeff : Fin 4 → Byte
  | 0 => 0x02
  | 1 => 0x03
  | 2 => 0x01
  | 3 => 0x01

/-- `m' = [0e, 0b, 0d, 09]`, the first row of the InvMixColumns matrix (R205). -/
def invMixCoeff : Fin 4 → Byte
  | 0 => 0x0E
  | 1 => 0x0B
  | 2 => 0x0D
  | 3 => 0x09

/-- The product of a column with the circulant matrix of entries `M[r][k] = m[(k - r) mod 4]`: row
`r` of it (R203, R205). -/
def mixByte (m : Fin 4 → Byte) (col : Fin 4 → Byte) (r : Fin 4) : Byte :=
  gmul (m (0 - r)) (col 0) ^^^ gmul (m (1 - r)) (col 1) ^^^ gmul (m (2 - r)) (col 2) ^^^
    gmul (m (3 - r)) (col 3)

/-- MixColumns (R203). -/
def mixColumns (st : Vector Word 4) : Vector Word 4 :=
  ofGrid fun r c => mixByte mixCoeff (fun k => grid st k c) r

/-- InvMixColumns (R205). -/
def invMixColumns (st : Vector Word 4) : Vector Word 4 :=
  ofGrid fun r c => mixByte invMixCoeff (fun k => grid st k c) r

/-- AddRoundKey with round `r`: `STATE<c> ^ RK[4r + c]` (R204). -/
def addRoundKey (rk : Vector Word 60) (r : Nat) (st : Vector Word 4) : Vector Word 4 :=
  Vector.ofFn fun c => st[c] ^^^ rkWord rk (4 * r + c.val)

/-- Rounds 1 .. n of the cipher, each SubBytes, ShiftRows, MixColumns, AddRoundKey (R206). -/
def middleRounds (rk : Vector Word 60) : Nat → Vector Word 4 → Vector Word 4
  | 0, st => st
  | n + 1, st =>
    addRoundKey rk (n + 1) (mixColumns (shiftRows (subBytes (middleRounds rk n st))))

/-- The cipher (R206). -/
def cipher (rk : Vector Word 60) (nr : Nat) (st : Vector Word 4) : Vector Word 4 :=
  addRoundKey rk nr (shiftRows (subBytes (middleRounds rk (nr - 1) (addRoundKey rk 0 st))))

/-- Rounds n down to 1 of the inverse cipher, each InvShiftRows, InvSubBytes, AddRoundKey,
InvMixColumns (R207). -/
def invMiddleRounds (rk : Vector Word 60) : Nat → Vector Word 4 → Vector Word 4
  | 0, st => st
  | n + 1, st =>
    invMiddleRounds rk n
      (invMixColumns (addRoundKey rk (n + 1) (invSubBytes (invShiftRows st))))

/-- The inverse cipher (R207). -/
def invCipher (rk : Vector Word 60) (nr : Nat) (st : Vector Word 4) : Vector Word 4 :=
  addRoundKey rk 0 (invSubBytes (invShiftRows (invMiddleRounds rk (nr - 1) (addRoundKey rk nr st))))

/-- SUBB (R210). -/
def execSubb (s : State) : Host.Outcome State Fault Refusal :=
  succeed (writeState (subBytes s.state) s)

/-- SHR (R211). -/
def execShr (s : State) : Host.Outcome State Fault Refusal :=
  succeed (writeState (shiftRows s.state) s)

/-- MIXC (R212). -/
def execMixc (s : State) : Host.Outcome State Fault Refusal :=
  succeed (writeState (mixColumns s.state) s)

/-- ARK (R213): NoKeySchedule before BadRound (R255). -/
def execArk (r : Nat) (s : State) : Host.Outcome State Fault Refusal :=
  match s.ksched with
  | none => fail .noKeySchedule s
  | some k =>
    if k.nr < r then fail .badRound s
    else succeed (writeState (addRoundKey s.rk r s.state) s)

/-- ISUBB (R214). -/
def execIsubb (s : State) : Host.Outcome State Fault Refusal :=
  succeed (writeState (invSubBytes s.state) s)

/-- ISHR (R215). -/
def execIshr (s : State) : Host.Outcome State Fault Refusal :=
  succeed (writeState (invShiftRows s.state) s)

/-- IMIXC (R216). -/
def execImixc (s : State) : Host.Outcome State Fault Refusal :=
  succeed (writeState (invMixColumns s.state) s)

/-- The checks and the write that ENC and DEC share: InvalidBlockLength before NoKeySchedule (R217,
R218, R255), then `f RK NR` on STATE. -/
def withBlock (f : Vector Word 60 → Nat → Vector Word 4 → Vector Word 4) (s : State) :
    Host.Outcome State Fault Refusal :=
  if s.blklen ≠ 16 then fail .invalidBlockLength s
  else
    match s.ksched with
    | none => fail .noKeySchedule s
    | some k => succeed (writeState (f s.rk k.nr s.state) s)

/-- ENC (R217). -/
def execEnc (s : State) : Host.Outcome State Fault Refusal := withBlock cipher s

/-- DEC (R218). -/
def execDec (s : State) : Host.Outcome State Fault Refusal := withBlock invCipher s

end Sys2Proof.Machine
end

