-- ==== Sys2Proof/Machine/Dispatch.lean ====
section
/-! DEFINITION. The completion of each command: one arm per constructor of `Instr`. -/

namespace Sys2Proof.Machine

/-- What the engine does when the command `i` completes (R253, R254). -/
def exec (i : Instr) (s : State) : Host.Outcome State Fault Refusal :=
  match i with
  -- 46_engine_control.md
  | .nop => Sys2Proof.Machine.execNop s
  -- 41_polynomial.md
  | .padd => Sys2Proof.Machine.execPadd s
  | .pmul => Sys2Proof.Machine.execPmul s
  | .pmod => Sys2Proof.Machine.execPmod s
  | .pdeg => Sys2Proof.Machine.execPdeg s
  | .pcoef idx => Sys2Proof.Machine.execPcoef idx s
  -- 42_field.md
  | .gadd => Sys2Proof.Machine.execGadd s
  | .gmul => Sys2Proof.Machine.execGmul s
  | .ginv => Sys2Proof.Machine.execGinv s
  -- 43_sbox.md
  | .sbox => Sys2Proof.Machine.execSbox s
  | .isbox => Sys2Proof.Machine.execIsbox s
  | .aff => Sys2Proof.Machine.execAff s
  | .iaff => Sys2Proof.Machine.execIaff s
  -- 44_key_schedule.md
  | .rotw => Sys2Proof.Machine.execRotw s
  | .subw => Sys2Proof.Machine.execSubw s
  | .rcon j => Sys2Proof.Machine.execRcon j s
  | .kexp => Sys2Proof.Machine.execKexp s
  -- 45_round_transform.md
  | .subb => Sys2Proof.Machine.execSubb s
  | .shr => Sys2Proof.Machine.execShr s
  | .mixc => Sys2Proof.Machine.execMixc s
  | .ark r => Sys2Proof.Machine.execArk r s
  | .isubb => Sys2Proof.Machine.execIsubb s
  | .ishr => Sys2Proof.Machine.execIshr s
  | .imixc => Sys2Proof.Machine.execImixc s
  | .enc => Sys2Proof.Machine.execEnc s
  | .dec => Sys2Proof.Machine.execDec s

end Sys2Proof.Machine
end

