-- ==== Sys2Proof/Machine/Engine.lean ====
section
/-! DEFINITION. The engine's turn: the completion of the command in flight. -/

namespace Sys2Proof.Machine

/-- The word of the command in flight (R24, R36): there is no other instruction fetch (R60). -/
def fetchWord (s : State) : Word := s.cmd

/-- The completion of the command in flight. An illegal word completes with IllegalCommand and
changes nothing else (R76, R77). -/
def completeCommand (s : State) : Host.Outcome State Fault Refusal :=
  match decode (fetchWord s) with
  | .ok i => exec i s
  | .error _ => fail .illegalCommand s

/-- The engine's turn. Between commands the engine is idle and keeps all state (R266). -/
def engineTurn (s : State) : Host.Outcome State Fault Refusal :=
  if s.busy then completeCommand s else .next s

/-- The turn `t` is taken (R20). -/
def takeTurn (t : Turn) (s : State) : Host.Outcome State Fault Refusal :=
  match t with
  | .host a => .next (hostAccess a s)
  | .engine => engineTurn s

/-- The command word `w` has been accepted and its completion is the very next turn. -/
def withCommandInFlight (w : Word) (s : State) : State :=
  { accept w s with schedule := .engine :: s.schedule }

end Sys2Proof.Machine
end

