-- ==== Sys2Proof/Machine/Step.lean ====
section
/-! DEFINITION. One step of the machine. -/

namespace Sys2Proof.Machine

/-- One step: the next turn of the schedule, and with no turn left the engine's (R20, R285). So a
command that has been accepted completes once the host's accesses are over (R292; log entry 3). -/
def step (s : State) : Host.Outcome State Fault Refusal :=
  match s.schedule with
  | [] => engineTurn s
  | t :: rest => takeTurn t { s with schedule := rest }

/-- `s` with the command of `nbits` bits `w` accepted and its completion the next turn (R24, R285; log
entry 6). The bits at and above `nbits` are 0. -/
def State.withFetchWord (s : State) (nbits w : Nat) : State :=
  withCommandInFlight (BitVec.ofNat 32 (w % 2 ^ nbits)) s

end Sys2Proof.Machine
end

