-- ==== Sys2Proof/Safety.lean ====
section
/-! DEFINITION. The terms the statements use: the invariant of the machine, runs, sequences of
commands, and which states differ in the round-key RAM alone. -/

namespace Sys2Proof.Safety

open Sys2Proof.Machine Sys2Proof.Tables

/-- While KSV = 1 the round-key RAM holds the expansion of its own first `Nk` words, with zeros above
it (R34, R175, R183). -/
def ScheduleHeld (s : State) : Prop :=
  ∀ k, s.ksched = some k →
    s.rk = scheduleRam (keyexp (s.rk.toList.take k.nk) k.nk k.nr) k.nr

/-- LASTERR is never the reserved code 1 (R100, U13). -/
def ErrorCodeLegal (s : State) : Prop := s.lastErr ≠ some .invalidCoefficient

/-- Every bus-error read the host has got carried the data 0 (R53). -/
def BusErrorsReadZero (s : State) : Prop := ∀ d, .read true d ∈ s.responses → d = 0

/-- The invariant every step keeps. -/
structure Inv (s : State) : Prop where
  schedule_held : ScheduleHeld s
  error_code_legal : ErrorCodeLegal s
  bus_errors_read_zero : BusErrorsReadZero s

/-- `s'` is `s` but for the content of a round-key RAM that holds no schedule (R283). -/
structure SameButHiddenRam (s s' : State) : Prop where
  same_but_rk : s' = { s with rk := s'.rk }
  same_rk_once_held : s.ksched ≠ none → s'.rk = s.rk

/-- `n` steps of the machine. -/
abbrev run (n : Nat) (s : State) : Host.Outcome State Fault Refusal := Host.Core.run Sys2Proof.core n s

/-- A run of `n` steps is safe when no step stops. -/
def SafeRun (n : Nat) (s : State) : Prop := ∃ t, run n s = .next t

/-- Commands completed one after the other, stopping at the first that does not answer a next
state. -/
def runCommands : List Instr → State → Host.Outcome State Fault Refusal
  | [], s => .next s
  | i :: rest, s =>
    match exec i s with
    | .next t => runCommands rest t
    | .fault r => .fault r
    | .refused r => .refused r

/-- The single-step form of the cipher: ARK 0, then SUBB, SHR, MIXC, ARK r for r = 1 .. Nr-1, then
SUBB, SHR, ARK Nr (R206, program P3). -/
def encCommands (nr : Nat) : List Instr :=
  [.ark 0] ++ (List.range (nr - 1)).flatMap (fun r => [.subb, .shr, .mixc, .ark (r + 1)]) ++
    [.subb, .shr, .ark nr]

/-- The single-step form of the inverse cipher: ARK Nr, then ISHR, ISUBB, ARK r, IMIXC for r = Nr-1
down to 1, then ISHR, ISUBB, ARK 0 (R207). -/
def decCommands (nr : Nat) : List Instr :=
  [.ark nr] ++
    (List.range (nr - 1)).reverse.flatMap (fun r => [.ishr, .isubb, .ark (r + 1), .imixc]) ++
    [.ishr, .isubb, .ark 0]

/-- The access is a legal write: 32 bits wide, at an aligned offset that names a register (R53). -/
def legalWrite : HostAccess → Bool
  | .write width off _ => (legalTarget width off).isSome
  | .read _ _ => false

/-- `t` is `s` with what a success completion changes beside the command's own registers (R254). -/
abbrev succeeded (s : State) : State := { s with lastErr := none, busy := false }

/-- `t` is `s` after the error completion with `e` (R253). -/
abbrev failed (e : EngineError) (s : State) : State :=
  { s with lastErr := some e, err := true, busy := false }

/-- What each error of R251 is raised by when the command in flight completes in `s`, with the priority
of R255. -/
def ErrorCause (s : State) : EngineError → Prop
  | .invalidCoefficient => False
  | .invalidIndex => (∃ idx, decode s.cmd = .ok (.pcoef idx) ∧ idx < 0) ∨ decode s.cmd = .ok (.rcon 0)
  | .divisionByZero => decode s.cmd = .ok .pmod ∧ s.opb = 0
  | .invalidKeyLength =>
    decode s.cmd = .ok .kexp ∧ s.keylen ≠ 16 ∧ s.keylen ≠ 24 ∧ s.keylen ≠ 32
  | .invalidBlockLength => (decode s.cmd = .ok .enc ∨ decode s.cmd = .ok .dec) ∧ s.blklen ≠ 16
  | .illegalCommand => ∀ row ∈ opcodeTable, s.cmd &&& row.mask ≠ row.matchWord
  | .noKeySchedule =>
    s.ksv = false ∧
      ((∃ r, decode s.cmd = .ok (.ark r)) ∨
        ((decode s.cmd = .ok .enc ∨ decode s.cmd = .ok .dec) ∧ s.blklen = 16))
  | .badRound => s.ksv = true ∧ ∃ r, decode s.cmd = .ok (.ark r) ∧ s.nr < r

end Sys2Proof.Safety
end

