-- ==== Sys2Proof/Certificates/Slice0/Obligations.lean ====
section
/-! DEFINITION. The statements for the provers, one `def Obligations.<Name> : Prop` each.

`succeeded s` and `failed e s` are record updates (R254, R253): `succeeded { s with resl := v }` says
that RESL becomes `v`, LASTERR 0 and BUSY 0, and that every other register, flag, RAM word and field of
the model keeps its value. Most statements about a command therefore give its whole next state. -/

open Sys2Proof Sys2Proof.Machine Sys2Proof.Safety Sys2Proof.Tables

/-! ### Encoding -/

/-- Decode and encode agree both ways: a word decodes to `i` exactly when `i` can be assembled and is
encoded by that word (R70-R78). -/
def Obligations.DecodeEncodeAgree : Prop :=
  ∀ (w : Word) (i : Instr), decode w = .ok i ↔ (i.WellFormed ∧ encode i = w)

/-- R75, R76: a word that decodes matches the row of its command and no other row; a word that does
not decode matches no row. -/
def Obligations.DecodeFollowsOpcodeTable : Prop :=
  ∀ w : Word,
    match decode w with
    | .ok i =>
      ∃ row ∈ opcodeTable, row.mnemonic = mnemonicOf i ∧ w &&& row.mask = row.matchWord ∧
        ∀ row' ∈ opcodeTable, w &&& row'.mask = row'.matchWord → row' = row
    | .error _ => ∀ row ∈ opcodeTable, w &&& row.mask ≠ row.matchWord

/-- A few words of R75, R76 and R78, one or more per family, written out from their fields. -/
def Obligations.SpecWordsDecode : Prop :=
  decode 0x00000000 = .ok .nop ∧
  decode 0x12000000 = .ok .pmod ∧
  decode 0x14000008 = .ok (.pcoef 8) ∧
  decode 0x140000FF = .ok (.pcoef (-1)) ∧
  decode 0x21000000 = .ok .gmul ∧
  decode 0x33000000 = .ok .iaff ∧
  decode 0x4200000A = .ok (.rcon 10) ∧
  decode 0x5300000B = .ok (.ark 11) ∧
  decode 0x59000000 = .ok .dec ∧
  decode 0x10000100 = .error .nonzeroMid ∧
  decode 0x13000001 = .error .nonzeroImm ∧
  decode 0x57000000 = .error .unknownOpcode

/-! ### Steps -/

/-- When the word in flight decodes to `i`, the engine's step is `exec i`: with no turn left, or when
the next turn is the engine's, which the step takes off the schedule. Three things here are the model's
and not the spec's words: that turns come off a schedule and that the engine steps when none is left
(log entry 3, DESIGN CHOICE), and that CMD is decoded at the completion, where R77 decodes it
at acceptance (log entry 11, DEDUCED: CMD cannot change in between). -/
def Obligations.StepRunsDecodedCommand : Prop :=
  ∀ (s : State) (i : Instr), s.busy = true → decode s.cmd = .ok i →
    (s.schedule = [] → step s = exec i s) ∧
    (∀ rest, s.schedule = .engine :: rest → step s = exec i { s with schedule := rest })

/-- The other steps: a host turn performs its access, and the engine idles between commands (R58,
R266). Two things here are the model's and not the spec's words: that the turns of both agents come off
a schedule, and that the engine steps when none is left (log entry 3, DESIGN CHOICE); and that an engine
turn with no command in flight is a step, which changes nothing but the schedule (log entry 15,
DEDUCED from R266). -/
def Obligations.StepTakesHostAndIdleTurns : Prop :=
  (∀ (s : State) (a : HostAccess) (rest : List Turn), s.schedule = .host a :: rest →
    step s = .next (hostAccess a { s with schedule := rest })) ∧
  (∀ s : State, s.busy = false → s.schedule = [] → step s = .next s) ∧
  (∀ (s : State) (rest : List Turn), s.busy = false → s.schedule = .engine :: rest →
    step s = .next { s with schedule := rest })

/-- R76, and R77's raise: a word that matches no row of R75 completes with IllegalCommand (code 8) and
changes nothing else. -/
def Obligations.IllegalWordCompletesWithIllegalCommand : Prop :=
  ∀ (s : State) (rest : List Turn), s.busy = true → s.schedule = .engine :: rest →
    (∀ row ∈ opcodeTable, s.cmd &&& row.mask ≠ row.matchWord) →
    step s = .next (failed .illegalCommand { s with schedule := rest }) ∧
    lastErrCode (failed .illegalCommand s).lastErr = 8

/-- No step stops: every state has a next state (R250, R53, R76 give an outcome for everything). -/
def Obligations.EveryRunIsSafe : Prop :=
  ∀ (n : Nat) (s : State), SafeRun n s

/-! ### Completions and errors -/

/-- R250, R253, R254, R256: each command ends in exactly one completion. BUSY falls; OVR, the inputs
and what belongs to the host stay; success leaves ERR, and an error leaves all but STATUS. -/
def Obligations.EveryCommandEndsInOneCompletion : Prop :=
  ∀ (i : Instr) (s : State), ∃ t, exec i s = .next t ∧
    ((t.lastErr = none ∧ t.err = s.err ∧ t.busy = false ∧ t.ovr = s.ovr ∧ t.cmd = s.cmd ∧
        t.opa = s.opa ∧ t.opb = s.opb ∧ t.keylen = s.keylen ∧ t.blklen = s.blklen ∧
        t.key = s.key ∧ t.schedule = s.schedule ∧ t.responses = s.responses ∧
        t.draws = s.draws) ∨
      ∃ e, t = failed e s)

/-- R251, R255: a completion reports the error `e` exactly when `e`'s cause holds and no error of
higher priority does; the codes are those of the table. -/
def Obligations.CompletionReportsTheListedError : Prop :=
  (∀ (s t : State) (e : EngineError), s.busy = true → s.schedule = [] → step s = .next t →
    (t.lastErr = some e ↔ ErrorCause s e)) ∧
  lastErrCode none = 0 ∧
  lastErrCode (some .invalidCoefficient) = 1 ∧ lastErrCode (some .invalidIndex) = 2 ∧
  lastErrCode (some .divisionByZero) = 3 ∧ lastErrCode (some .invalidKeyLength) = 4 ∧
  lastErrCode (some .invalidBlockLength) = 5 ∧ lastErrCode (some .illegalCommand) = 8 ∧
  lastErrCode (some .noKeySchedule) = 9 ∧ lastErrCode (some .badRound) = 10

/-- R252: the commands that cannot fail once decoded. -/
def Obligations.UnlistedCommandsNeverFail : Prop :=
  ∀ i ∈ ([.nop, .padd, .pmul, .pdeg, .gadd, .gmul, .ginv, .sbox, .isbox, .aff, .iaff, .rotw, .subw,
      .subb, .shr, .mixc, .isubb, .ishr, .imixc] : List Instr),
    ∀ s : State, ∃ t, exec i s = .next t ∧ t.lastErr = none ∧ t.err = s.err

/-- R27: RESL and RESH are unchanged by NOP, KEXP, the state commands and every error completion. -/
def Obligations.ResultRegistersKept : Prop :=
  ∀ (i : Instr) (s t : State), exec i s = .next t →
    ((i ∈ ([.nop, .kexp, .subb, .shr, .mixc, .isubb, .ishr, .imixc, .enc, .dec] : List Instr) ∨
        (∃ r, i = .ark r)) ∨ t.lastErr ≠ none) →
    t.resl = s.resl ∧ t.resh = s.resh

/-- R31: no command but those of 45_round_transform.md writes STATE, and RK and the descriptor change
in KEXP alone (R23, R34). -/
def Obligations.StateAndScheduleWriters : Prop :=
  ∀ (i : Instr) (s t : State), exec i s = .next t →
    ((i ∉ ([.subb, .shr, .mixc, .isubb, .ishr, .imixc, .enc, .dec] : List Instr) ∧
        ∀ r, i ≠ .ark r) → t.state = s.state) ∧
    (i ≠ .kexp → t.rk = s.rk ∧ t.ksched = s.ksched)

/-! ### Engine control and polynomial commands -/

/-- R240: NOP completes and changes nothing else. -/
def Obligations.NopOnlyCompletes : Prop :=
  decode 0x00000000 = .ok .nop ∧ ∀ s : State, exec .nop s = .next (succeeded s)

/-- R110: PADD. -/
def Obligations.PaddIsXor : Prop :=
  decode 0x10000000 = .ok .padd ∧
    ∀ s : State, exec .padd s = .next (succeeded { s with resl := s.opa ^^^ s.opb, resh := 0 })

/-- R111, R102: coefficient `k` of PMUL's 64-bit product is the XOR over `i` of `a[i] AND b[k-i]`, bit
63 is 0, and degrees add when both operands are non-zero. -/
def Obligations.PmulIsCarrylessProduct : Prop :=
  decode 0x11000000 = .ok .pmul ∧
    ∀ s : State, ∃ hi lo : Word,
      exec .pmul s = .next (succeeded { s with resl := lo, resh := hi }) ∧
      (hi ++ lo).getLsbD 63 = false ∧
      (∀ k < 64, (hi ++ lo).getLsbD k =
        (List.range (k + 1)).foldl
          (fun acc i => acc ^^ (s.opa.getLsbD i && s.opb.getLsbD (k - i))) false) ∧
      (s.opa ≠ 0 → s.opb ≠ 0 →
        pdeg (hi ++ lo).toNat = pdeg s.opa.toNat + pdeg s.opb.toNat)

/-- R112, R103: PMOD by zero fails with DivisionByZero and writes nothing; otherwise remainder and
quotient satisfy the division property, which fixes both. -/
def Obligations.PmodDivides : Prop :=
  decode 0x12000000 = .ok .pmod ∧
  (∀ s : State, s.opb = 0 → exec .pmod s = .next (failed .divisionByZero s)) ∧
  (∀ s : State, s.opb ≠ 0 → ∃ r q : Word,
    exec .pmod s = .next (succeeded { s with resl := r, resh := q }) ∧
    s.opa.toNat = clmul q.toNat s.opb.toNat ^^^ r.toNat ∧
    pdeg r.toNat < pdeg s.opb.toNat ∧
    (pdeg s.opb.toNat ≤ pdeg s.opa.toNat →
      pdeg q.toNat = pdeg s.opa.toNat - pdeg s.opb.toNat) ∧
    (pdeg s.opa.toNat < pdeg s.opb.toNat → q = 0))

/-- R113, R101: PDEG gives the index of the highest set bit, and 0xFFFFFFFF for the zero
polynomial. -/
def Obligations.PdegIsHighestSetBit : Prop :=
  decode 0x13000000 = .ok .pdeg ∧
    ∀ s : State, ∃ n : Word,
      exec .pdeg s = .next (succeeded { s with resl := n, resh := 0 }) ∧
      (s.opa = 0 → n = 0xFFFFFFFF) ∧
      (s.opa ≠ 0 → n.toNat < 32 ∧ s.opa.getLsbD n.toNat = true ∧
        ∀ j, n.toNat < j → s.opa.getLsbD j = false)

/-- R114: PCOEF, for every index: negative fails, 0..31 reads the bit, above 31 gives 0. The word
`0x140000ii` decodes to `idx = sext_32(ii)`. -/
def Obligations.PcoefReadsTerm : Prop :=
  (∀ imm : Byte, decode (0x14#8 ++ 0#16 ++ imm) = .ok (.pcoef (imm.signExtend 32).toInt)) ∧
  (∀ (s : State) (idx : Int), idx < 0 → exec (.pcoef idx) s = .next (failed .invalidIndex s)) ∧
  (∀ (s : State) (n : Nat), n ≤ 31 → exec (.pcoef n) s =
    .next (succeeded { s with resl := (BitVec.ofBool (s.opa.getLsbD n)).setWidth 32, resh := 0 })) ∧
  (∀ (s : State) (n : Nat), 31 < n →
    exec (.pcoef n) s = .next (succeeded { s with resl := 0, resh := 0 }))

/-- R115: the laws of the polynomial helpers. -/
def Obligations.PolynomialLaws : Prop :=
  (∀ a : Word, a ^^^ a = 0) ∧
  (∀ a b : Word, clmul a.toNat b.toNat = clmul b.toNat a.toNat) ∧
  (∀ a b c : Word,
    clmul a.toNat (b ^^^ c).toNat = clmul a.toNat b.toNat ^^^ clmul a.toNat c.toNat) ∧
  (∀ a d : Word, d ≠ 0 → pmod (clmul a.toNat d.toNat) d.toNat = (0, a.toNat)) ∧
  (∀ a b d : Word, d ≠ 0 →
    (pmod (a ^^^ b).toNat d.toNat).1 = (pmod a.toNat d.toNat).1 ^^^ (pmod b.toNat d.toNat).1) ∧
  pdeg 0x3 = 1 ∧ pdeg 0x0 = -1

/-! ### Field commands -/

/-- R140: GADD, on the low bytes whatever stands above them. -/
def Obligations.GaddIsByteXor : Prop :=
  decode 0x20000000 = .ok .gadd ∧
    ∀ (s : State) (hiA hiB : BitVec 24) (a b : Byte), s.opa = hiA ++ a → s.opb = hiB ++ b →
      exec .gadd s = .next (succeeded { s with resl := (a ^^^ b).setWidth 32, resh := 0 })

/-- R141, R143: GMUL gives the byte that PMUL followed by PMOD with OPB = 0x11B gives on the same two
bytes, whatever stands above them in OPA and OPB. -/
def Obligations.GmulIsPmulThenPmod : Prop :=
  decode 0x21000000 = .ok .gmul ∧
    ∀ (s : State) (hiA hiB : BitVec 24) (a b : Byte), s.opa = hiA ++ a → s.opb = hiB ++ b →
      ∃ t u : State,
        exec .pmul { s with opa := a.setWidth 32, opb := b.setWidth 32 } = .next t ∧
        exec .pmod { t with opa := t.resl, opb := 0x11B } = .next u ∧
        u.resl.toNat < 256 ∧
        exec .gmul s = .next (succeeded { s with resl := u.resl, resh := 0 })

/-- R142, R132, R156: GINV gives the unique inverse of a non-zero byte, and 0 with no error for 0; its
values are those of the table. -/
def Obligations.GinvIsTheInverse : Prop :=
  decode 0x22000000 = .ok .ginv ∧
  (∀ (s : State) (hi : BitVec 24), s.opa = hi ++ (0 : Byte) →
    exec .ginv s = .next (succeeded { s with resl := 0, resh := 0 })) ∧
  (∀ (s : State) (hi : BitVec 24) (a : Byte), s.opa = hi ++ a → a ≠ 0 → ∃ b : Byte,
    exec .ginv s = .next (succeeded { s with resl := b.setWidth 32, resh := 0 }) ∧
    b ≠ 0 ∧ gmul a b = 1 ∧ (∀ b' : Byte, gmul a b' = 1 → b' = b) ∧
    b = ginvTable.getD a.toNat 0)

/-- R143, R131: the field laws; the product is the remainder of the carryless product by 0x11B; and
multiplication by 0x02 is a shift and a conditional reduction. -/
def Obligations.FieldLaws : Prop :=
  (∀ a b : Byte, a ^^^ b = b ^^^ a) ∧
  (∀ a : Byte, a ^^^ a = 0) ∧
  (∀ a b : Byte, gmul a b = gmul b a) ∧
  (∀ a : Byte, a ≠ 0 → gmul a (ginv a) = 1) ∧
  (∀ a b c : Byte, gmul a (b ^^^ c) = gmul a b ^^^ gmul a c) ∧
  (∀ a b c : Byte, gmul (gmul a b) c = gmul a (gmul b c)) ∧
  (∀ a : Byte, gmul a 1 = a ∧ gmul a 0 = 0 ∧ a ^^^ 0 = a) ∧
  (∀ a b : Byte, (pmod (clmul a.toNat b.toNat) 0x11B).1 = (gmul a b).toNat) ∧
  (∀ a : Byte, gmul a 0x02 = (a <<< 1) ^^^ (if a.getLsbD 7 then 0x1B else 0))

/-! ### S-box commands -/

/-- R160, R154: SBOX gives the byte of the forward table, which has no fixed point. -/
def Obligations.SboxIsTheTable : Prop :=
  decode 0x30000000 = .ok .sbox ∧
    ∀ (s : State) (hi : BitVec 24) (b : Byte), s.opa = hi ++ b →
      exec .sbox s =
        .next (succeeded { s with resl := (sboxTable.getD b.toNat 0).setWidth 32, resh := 0 }) ∧
      sboxTable.getD b.toNat 0 ≠ b

/-- R161, R155: ISBOX gives the byte of the inverse table, which undoes the forward table. -/
def Obligations.IsboxIsTheTable : Prop :=
  decode 0x31000000 = .ok .isbox ∧
    ∀ (s : State) (hi : BitVec 24) (b : Byte), s.opa = hi ++ b →
      exec .isbox s =
        .next (succeeded { s with resl := (isboxTable.getD b.toNat 0).setWidth 32, resh := 0 }) ∧
      isboxTable.getD (sboxTable.getD b.toNat 0).toNat 0 = b

/-- R162, R163, R150, R151: AFF and IAFF bit by bit, and each undoes the other. -/
def Obligations.AffineTransformsBitByBit : Prop :=
  decode 0x32000000 = .ok .aff ∧ decode 0x33000000 = .ok .iaff ∧
  (∀ (s : State) (hi : BitVec 24) (b : Byte), s.opa = hi ++ b → ∃ v : Byte,
    exec .aff s = .next (succeeded { s with resl := v.setWidth 32, resh := 0 }) ∧
    ∀ i < 8, v.getLsbD i =
      (b.getLsbD i ^^ b.getLsbD ((i + 4) % 8) ^^ b.getLsbD ((i + 5) % 8) ^^
        b.getLsbD ((i + 6) % 8) ^^ b.getLsbD ((i + 7) % 8) ^^ (0x63#8).getLsbD i)) ∧
  (∀ (s : State) (hi : BitVec 24) (b : Byte), s.opa = hi ++ b → ∃ v : Byte,
    exec .iaff s = .next (succeeded { s with resl := v.setWidth 32, resh := 0 }) ∧
    ∀ i < 8, v.getLsbD i =
      (b.getLsbD ((i + 2) % 8) ^^ b.getLsbD ((i + 5) % 8) ^^ b.getLsbD ((i + 7) % 8) ^^
        (0x05#8).getLsbD i)) ∧
  (∀ b : Byte, iaff (aff b) = b ∧ aff (iaff b) = b)

/-- R164: SBOX, then its result moved to OPA, then ISBOX, gives the byte back; `sbox` is a bijection
and no involution. -/
def Obligations.SboxRoundTrip : Prop :=
  (∀ (s : State) (b : Byte), s.opa = b.setWidth 32 → ∃ t u : State,
    exec .sbox s = .next t ∧ exec .isbox { t with opa := t.resl } = .next u ∧
    u.resl = b.setWidth 32) ∧
  Function.Bijective sbox ∧ sbox (sbox 0x00) = 0xFB

/-! ### Key-schedule commands -/

/-- R180, R170: ROTW moves byte `k + 1` to byte `k`; four ROTWs, each result moved to OPA, give the
word back. -/
def Obligations.RotwRotatesBytes : Prop :=
  decode 0x40000000 = .ok .rotw ∧
  (∀ (s : State) (a0 a1 a2 a3 : Byte), s.opa = wordOf a0 a1 a2 a3 →
    exec .rotw s = .next (succeeded { s with resl := wordOf a1 a2 a3 a0, resh := 0 })) ∧
  (∀ w : Word, rotw (rotw (rotw (rotw w))) = w)

/-- R181, R171: SUBW applies the forward S-box table to each byte. -/
def Obligations.SubwSubstitutesBytes : Prop :=
  decode 0x41000000 = .ok .subw ∧
  ∀ (s : State) (a0 a1 a2 a3 : Byte), s.opa = wordOf a0 a1 a2 a3 →
    exec .subw s = .next (succeeded { s with
      resl := wordOf (sboxTable.getD a0.toNat 0) (sboxTable.getD a1.toNat 0)
        (sboxTable.getD a2.toNat 0) (sboxTable.getD a3.toNat 0),
      resh := 0 })

/-- R182, R172: RCON 0 fails with InvalidIndex; RCON 1 is 0x01 in the top byte, each further constant is
the one before it times 0x02, and the sequence has period 51. The word `0x420000jj` decodes to
`j = zext_32(jj)`. -/
def Obligations.RconIsPowersOfX : Prop :=
  (∀ imm : Byte, decode (0x42#8 ++ 0#16 ++ imm) = .ok (.rcon imm.toNat)) ∧
  (∀ s : State, exec (.rcon 0) s = .next (failed .invalidIndex s)) ∧
  (∃ p : Nat → Byte,
    p 1 = 0x01 ∧ (∀ j ≥ 1, p (j + 1) = gmul (p j) 0x02) ∧ (∀ j ≥ 1, p (j + 51) = p j) ∧
    (List.range 10).map (fun n => p (n + 1)) =
      [0x01, 0x02, 0x04, 0x08, 0x10, 0x20, 0x40, 0x80, 0x1B, 0x36] ∧
    ∀ (s : State) (j : Nat), 1 ≤ j →
      exec (.rcon j) s = .next (succeeded { s with resl := wordOf (p j) 0 0 0, resh := 0 }))

/-- R183, R174, R173: KEXP. With KEYLEN 16, 24 or 32 the RAM's first `Nk` words are KEY0..KEY<Nk-1>,
each later word up to `4 (Nr + 1)` follows the recurrence, the rest are 0, and KSTAT holds KSV = 1, NK
and NR. With any other KEYLEN it fails and the schedule held before stays. -/
def Obligations.KexpExpandsTheKey : Prop :=
  decode 0x43000000 = .ok .kexp ∧
  (∀ s : State, s.keylen ≠ 16 → s.keylen ≠ 24 → s.keylen ≠ 32 →
    exec .kexp s = .next (failed .invalidKeyLength s)) ∧
  (∀ (s : State) (kl : Byte) (k : KeySize) (nk nr : Nat),
    (kl, k, nk, nr) ∈ ([(16, .aes128, 4, 10), (24, .aes192, 6, 12), (32, .aes256, 8, 14)] :
      List (Byte × KeySize × Nat × Nat)) →
    s.keylen = kl →
    ∃ rk : Vector Word 60,
      exec .kexp s = .next (succeeded { s with rk := rk, ksched := some k }) ∧
      k.nk = nk ∧ k.nr = nr ∧
      (∀ i < nk, rk[i]? = s.key[i]?) ∧
      (∀ i, nk ≤ i → i < 4 * (nr + 1) →
        rkWord rk i = rkWord rk (i - nk) ^^^
          (if i % nk = 0 then subw (rotw (rkWord rk (i - 1))) ^^^ rcon (i / nk)
           else if 6 < nk ∧ i % nk = 4 then subw (rkWord rk (i - 1))
           else rkWord rk (i - 1))) ∧
      (∀ i, 4 * (nr + 1) ≤ i → i < 60 → rk[i]? = some 0))

/-- R32, R183: KEXP's schedule depends on KEYLEN and KEY0..KEY<Nk-1> alone: two states that agree there
get the same RAM and descriptor, whatever the higher KEY words and the old RAM. -/
def Obligations.KexpReadsOnlyTheKeyWords : Prop :=
  ∀ (s s' : State) (k : KeySize), keySizeOf s.keylen = some k → s'.keylen = s.keylen →
    (∀ i < k.nk, s.key[i]? = s'.key[i]?) →
    ∃ t t', exec .kexp s = .next t ∧ exec .kexp s' = .next t' ∧ t.rk = t'.rk ∧
      t.ksched = some k ∧ t'.ksched = some k

/-! ### Round-transform commands -/

/-- R210, R214, R201: SUBB and ISUBB substitute every byte of STATE by the tables. -/
def Obligations.SubbAndIsubbSubstituteBytes : Prop :=
  decode 0x50000000 = .ok .subb ∧ decode 0x54000000 = .ok .isubb ∧
  (∀ s : State, ∃ st, exec .subb s = .next (succeeded { s with state := st }) ∧
    ∀ r c, grid st r c = sboxTable.getD (grid s.state r c).toNat 0) ∧
  (∀ s : State, ∃ st, exec .isubb s = .next (succeeded { s with state := st }) ∧
    ∀ r c, grid st r c = isboxTable.getD (grid s.state r c).toNat 0)

/-- R211, R215, R202: SHR moves row `r` left by `r`, ISHR right by `r`. -/
def Obligations.ShrAndIshrShiftRows : Prop :=
  decode 0x51000000 = .ok .shr ∧ decode 0x55000000 = .ok .ishr ∧
  (∀ s : State, ∃ st, exec .shr s = .next (succeeded { s with state := st }) ∧
    ∀ r c c' : Fin 4, c'.val = (c.val + r.val) % 4 → grid st r c = grid s.state r c') ∧
  (∀ s : State, ∃ st, exec .ishr s = .next (succeeded { s with state := st }) ∧
    ∀ r c c' : Fin 4, c.val = (c'.val + r.val) % 4 → grid st r c = grid s.state r c')

/-- R212, R203: MIXC, the four equations of a column. -/
def Obligations.MixcMultipliesColumns : Prop :=
  decode 0x52000000 = .ok .mixc ∧
  ∀ s : State, ∃ st, exec .mixc s = .next (succeeded { s with state := st }) ∧
    ∀ c : Fin 4,
      let a := fun r => grid s.state r c
      grid st 0 c = gmul 0x02 (a 0) ^^^ gmul 0x03 (a 1) ^^^ gmul 0x01 (a 2) ^^^ gmul 0x01 (a 3) ∧
      grid st 1 c = gmul 0x01 (a 0) ^^^ gmul 0x02 (a 1) ^^^ gmul 0x03 (a 2) ^^^ gmul 0x01 (a 3) ∧
      grid st 2 c = gmul 0x01 (a 0) ^^^ gmul 0x01 (a 1) ^^^ gmul 0x02 (a 2) ^^^ gmul 0x03 (a 3) ∧
      grid st 3 c = gmul 0x03 (a 0) ^^^ gmul 0x01 (a 1) ^^^ gmul 0x01 (a 2) ^^^ gmul 0x02 (a 3)

/-- R216, R205: IMIXC, the four equations of a column. -/
def Obligations.ImixcMultipliesColumns : Prop :=
  decode 0x56000000 = .ok .imixc ∧
  ∀ s : State, ∃ st, exec .imixc s = .next (succeeded { s with state := st }) ∧
    ∀ c : Fin 4,
      let a := fun r => grid s.state r c
      grid st 0 c = gmul 0x0E (a 0) ^^^ gmul 0x0B (a 1) ^^^ gmul 0x0D (a 2) ^^^ gmul 0x09 (a 3) ∧
      grid st 1 c = gmul 0x09 (a 0) ^^^ gmul 0x0E (a 1) ^^^ gmul 0x0B (a 2) ^^^ gmul 0x0D (a 3) ∧
      grid st 2 c = gmul 0x0D (a 0) ^^^ gmul 0x09 (a 1) ^^^ gmul 0x0E (a 2) ^^^ gmul 0x0B (a 3) ∧
      grid st 3 c = gmul 0x0B (a 0) ^^^ gmul 0x0D (a 1) ^^^ gmul 0x09 (a 2) ^^^ gmul 0x0E (a 3)

/-- R201, R202, R205, R214, R215, R216: each inverse transform undoes its transform, in both orders. -/
def Obligations.StateTransformsInvert : Prop :=
  ∀ (s : State) (f g : Instr),
    (f, g) ∈ ([(.subb, .isubb), (.isubb, .subb), (.shr, .ishr), (.ishr, .shr), (.mixc, .imixc),
      (.imixc, .mixc)] : List (Instr × Instr)) →
    runCommands [f, g] s = .next (succeeded s)

/-- R213, R204: ARK. NoKeySchedule when KSV = 0, then BadRound when r > NR, else `STATE<c>` is XORed with
`RK[4r + c]`. The word `0x530000rr` decodes to `r = zext_32(rr)`. -/
def Obligations.ArkAddsTheRoundKey : Prop :=
  (∀ imm : Byte, decode (0x53#8 ++ 0#16 ++ imm) = .ok (.ark imm.toNat)) ∧
  (∀ (s : State) (r : Nat), s.ksv = false → exec (.ark r) s = .next (failed .noKeySchedule s)) ∧
  (∀ (s : State) (r : Nat), s.ksv = true → s.nr < r →
    exec (.ark r) s = .next (failed .badRound s)) ∧
  (∀ (s : State) (r : Nat), s.ksv = true → r ≤ s.nr → ∃ st,
    exec (.ark r) s = .next (succeeded { s with state := st }) ∧
    ∀ c : Fin 4, ∃ h : 4 * r + c.val < 60, st[c] = s.state[c] ^^^ s.rk[4 * r + c.val])

/-- R204, R213: two ARKs with the same legal round leave STATE as it was. -/
def Obligations.ArkTwiceIsIdentity : Prop :=
  ∀ (s : State) (r : Nat), s.ksv = true → r ≤ s.nr →
    runCommands [.ark r, .ark r] s = .next (succeeded s)

/-- R217, R206: ENC fails with InvalidBlockLength unless BLKLEN = 16, then with NoKeySchedule when
KSV = 0; otherwise it leaves exactly the state that the single commands of R206 leave: ARK 0, Nr - 1
rounds of SUBB, SHR, MIXC, ARK, and a last round without MIXC. -/
def Obligations.EncIsItsRoundCommands : Prop :=
  decode 0x58000000 = .ok .enc ∧
  (∀ s : State, s.blklen ≠ 16 → exec .enc s = .next (failed .invalidBlockLength s)) ∧
  (∀ s : State, s.blklen = 16 → s.ksv = false → exec .enc s = .next (failed .noKeySchedule s)) ∧
  (∀ (s : State) (k : KeySize), s.blklen = 16 → s.ksched = some k →
    exec .enc s = runCommands (encCommands k.nr) s ∧
    ∃ st, exec .enc s = .next (succeeded { s with state := st }))

/-- R218, R207: DEC fails as ENC does; otherwise it leaves exactly the state that the single commands
of R207 leave, in the literal inverse order: ARK Nr, then ISHR, ISUBB, ARK r, IMIXC for r = Nr - 1 down
to 1, then ISHR, ISUBB, ARK 0. -/
def Obligations.DecIsItsRoundCommands : Prop :=
  decode 0x59000000 = .ok .dec ∧
  (∀ s : State, s.blklen ≠ 16 → exec .dec s = .next (failed .invalidBlockLength s)) ∧
  (∀ s : State, s.blklen = 16 → s.ksv = false → exec .dec s = .next (failed .noKeySchedule s)) ∧
  (∀ (s : State) (k : KeySize), s.blklen = 16 → s.ksched = some k →
    exec .dec s = runCommands (decCommands k.nr) s ∧
    ∃ st, exec .dec s = .next (succeeded { s with state := st }))

/-- R219: for every key length of 16, 24 or 32 bytes, every key and every block, KEXP and then ENC and
DEC leave STATE as it was, and so do KEXP and then DEC and ENC. -/
def Obligations.EncryptDecryptRoundTrip : Prop :=
  ∀ s : State, s.keylen ∈ ([16, 24, 32] : List Byte) → s.blklen = 16 →
    ∃ t u v, exec .kexp s = .next t ∧ runCommands [.enc, .dec] t = .next u ∧
      runCommands [.dec, .enc] t = .next v ∧ u.state = s.state ∧ v.state = s.state ∧
      u.lastErr = none ∧ v.lastErr = none

/-! ### The register window -/

/-- 10_state.md section 2: an offset names a register exactly when it is that register's offset, and an
offset names none exactly when it is misaligned or in a reserved range (R53). -/
def Obligations.RegisterMapIsExact : Prop :=
  (∀ (off : Offset) (reg : WindowReg), regAt off = some reg ↔ reg.offset = off) ∧
  (∀ off : Offset, regAt off = none ↔
    (off.toNat % 4 ≠ 0 ∨ (0x028 ≤ off.toNat ∧ off.toNat ≤ 0x02F) ∨
      (0x060 ≤ off.toNat ∧ off.toNat ≤ 0x0FF) ∨ 0x1F0 ≤ off.toNat))

/-- R53, R260: any access that is not 32 bits wide, or misaligned, or at a reserved offset gets a bus
error: a read returns 0, and no register or flag changes, busy or not. -/
def Obligations.BusErrorChangesNothing : Prop :=
  ∀ (s : State) (width : AccessWidth) (off : Offset) (data : Word),
    (width ≠ .w32 ∨ off.toNat % 4 ≠ 0 ∨ (0x028 ≤ off.toNat ∧ off.toNat ≤ 0x02F) ∨
      (0x060 ≤ off.toNat ∧ off.toNat ≤ 0x0FF) ∨ 0x1F0 ≤ off.toNat) →
    hostAccess (.read width off) s = { s with responses := .read true 0 :: s.responses } ∧
    hostAccess (.write width off data) s = { s with responses := .write true :: s.responses }

/-- R22: the bits of a STATUS word. -/
def Obligations.StatusWordLayout : Prop :=
  ∀ s : State,
    (readReg .status s).getLsbD 0 = s.busy ∧ (readReg .status s).getLsbD 1 = s.err ∧
    (readReg .status s).getLsbD 2 = s.ovr ∧ (readReg .status s).getLsbD 3 = false ∧
    (readReg .status s).extractLsb' 4 4 = lastErrCode s.lastErr ∧
    (readReg .status s).extractLsb' 8 24 = 0

/-- R23, R33: KSTAT is 0 without a schedule and 0x000A0401, 0x000C0601 or 0x000E0801 with one, and
RKW<i> reads `RK[i]` with a schedule and 0 without. -/
def Obligations.KstatAndRkwReads : Prop :=
  ∀ s : State,
    (s.ksched = none → readReg .kstat s = 0 ∧ ∀ i, readReg (.rkw i) s = 0) ∧
    (s.ksched = some .aes128 → readReg .kstat s = 0x000A0401) ∧
    (s.ksched = some .aes192 → readReg .kstat s = 0x000C0601) ∧
    (s.ksched = some .aes256 → readReg .kstat s = 0x000E0801) ∧
    (s.ksv = true → ∀ i, readReg (.rkw i) s = s.rk[i])

/-- R54, R55, R24, R56: reading any register after a legal write while idle. OPA, OPB, STATE and KEY
take the data, KEYLEN and BLKLEN its low byte, CMD takes it and raises BUSY, STATUS clears ERR and OVR by
bits 1 and 2; a read-only register and every register not written keep their value. The bus reports
no error. -/
def Obligations.ReadAfterIdleWrite : Prop :=
  ∀ (s : State) (w r : WindowReg) (data : Word), s.busy = false →
    let t := hostAccess (.write .w32 w.offset data) s
    t.responses = .write false :: s.responses ∧
    readReg r t =
      if w = .cmd ∧ r = .status then readReg .status s ||| 1
      else if w ≠ r then readReg r s
      else match w with
        | .id | .kstat | .resl | .resh | .rkw _ => readReg r s
        | .status => readReg .status s &&& ~~~(data &&& 0x6)
        | .keylen | .blklen => data &&& 0xFF
        | .cmd | .opa | .opb | .state _ | .key _ => data

/-- R24: a CMD write while idle stores the word and sets BUSY, and changes no other register; a write
to a read-only register changes nothing (R54). Both complete normally on the bus. -/
def Obligations.IdleCmdAndReadOnlyWrites : Prop :=
  ∀ (s : State) (data : Word), s.busy = false →
    hostAccess (.write .w32 0x00C data) s =
      { s with cmd := data, busy := true, responses := .write false :: s.responses } ∧
    ∀ reg, (reg ∈ ([.id, .kstat, .resl, .resh] : List WindowReg) ∨ ∃ i, reg = .rkw i) →
      hostAccess (.write .w32 reg.offset data) s =
        { s with responses := .write false :: s.responses }

/-- R61: while BUSY = 1 every legal write, to whichever register, is dropped and sets OVR. -/
def Obligations.BusyWriteIsDropped : Prop :=
  ∀ (s : State) (reg : WindowReg) (data : Word), s.busy = true →
    hostAccess (.write .w32 reg.offset data) s =
      { s with ovr := true, responses := .write false :: s.responses }

/-- Reads (R62, R56). While BUSY = 1 a read of RESL, RESH, STATE, KSTAT or RKW draws an unspecified
value, whatever it is; every other legal read returns the register's value. Neither changes a register.
That the drawn value is `Config.busyRead` of the counter `draws`, which the read advances, is the
model's form of R62's fresh draw (log entry 2, DESIGN CHOICE). That the answer joins the list
`responses` is the model's too (log entry 4, DESIGN CHOICE). -/
def Obligations.HostReads : Prop :=
  ∀ (s : State) (reg : WindowReg),
    (s.busy = true →
      (reg ∈ ([.resl, .resh, .kstat] : List WindowReg) ∨ (∃ c, reg = .state c) ∨ ∃ i, reg = .rkw i) →
      hostAccess (.read .w32 reg.offset) s = { s with
        responses := .read false (Config.busyRead s.draws) :: s.responses,
        draws := s.draws + 1 }) ∧
    ((s.busy = false ∨ reg ∈ ([.id, .status, .cmd, .opa, .opb, .keylen, .blklen] : List WindowReg) ∨
        ∃ k, reg = .key k) →
      hostAccess (.read .w32 reg.offset) s =
        { s with responses := .read false (readReg reg s) :: s.responses })

/-! ### Reset -/

/-- R40, R281, R21: after reset ID reads 0x47463238 and every other register 0, with no command in
flight, whatever the round-key RAM holds. -/
def Obligations.ResetRegisters : Prop :=
  ∀ rkReset : Vector Word 60,
    readReg .id (State.resetWith rkReset) = 0x47463238 ∧
    (∀ reg, reg ≠ .id → readReg reg (State.resetWith rkReset) = 0) ∧
    (State.resetWith rkReset).busy = false ∧ (State.resetWith rkReset).rk = rkReset

/-- R282: a reset abandons the command in flight: from any state, every register reads as at reset, and
the engine's next turn completes nothing. That the turns still to come and the responses given stay is
the model's choice (log entry 5). -/
def Obligations.ResetAbandonsTheCommand : Prop :=
  ∀ (s : State) (rkReset : Vector Word 60),
    (∀ reg, readReg reg (applyReset rkReset s) = readReg reg (State.resetWith rkReset)) ∧
    engineTurn (applyReset rkReset s) = .next (applyReset rkReset s)

/-! ### The machine as a whole -/

/-- The invariant holds after reset, whatever the round-key RAM holds. -/
def Obligations.InvAtReset : Prop := ∀ rkReset : Vector Word 60, Inv (State.resetWith rkReset)

/-- Every step keeps the invariant: a held schedule is the expansion of its own key words, code 1 is
never reported, and bus-error reads return 0. -/
def Obligations.StepKeepsInv : Prop :=
  ∀ s t : State, Inv s → step s = .next t → Inv t

/-- R283: no result depends on `RK_RESET`. Two runs of any length and any schedule, from reset with two
different RAM contents, give the same responses and the same registers, and the same RAM once a
schedule is held. -/
def Obligations.ResetRamIsUnobservable : Prop :=
  ∀ (n : Nat) (turns : List Turn) (rk₁ rk₂ : Vector Word 60), ∃ t₁ t₂,
    run n ((State.resetWith rk₁).submit turns) = .next t₁ ∧
    run n ((State.resetWith rk₂).submit turns) = .next t₂ ∧
    t₁ = { t₂ with rk := t₁.rk } ∧ t₁.responses = t₂.responses ∧
    (∀ reg, readReg reg t₁ = readReg reg t₂) ∧
    (t₁.ksched ≠ none → t₁.rk = t₂.rk)

/-- R292: an accepted command completes: after at most as many steps as there are turns left, the
command in flight is still the accepted one and the next step ends it. The schedule being finite is
the model's form of fairness (log entry 3). -/
def Obligations.AcceptedCommandCompletes : Prop :=
  ∀ s : State, s.busy = true → ∃ n u t, n ≤ s.schedule.length ∧ run n s = .next u ∧
    u.busy = true ∧ u.cmd = s.cmd ∧ step u = .next t ∧ t.busy = false ∧ t.cmd = s.cmd

/-- R36, R60, R61: a command's result is a function of the state at acceptance. Whatever accesses the
host makes before the completion, the state after it is the one an immediate completion leaves, but
for OVR, which is set when one of the accesses was a legal write, and for what the host has read. That
the accesses and the completion stand in a schedule is the model's choice (log entry 3). -/
def Obligations.AccessesWhileBusyDoNotChangeTheResult : Prop :=
  ∀ (s : State) (accs : List HostAccess) (rest : List Turn), s.busy = true → ∃ t t',
    run 1 { s with schedule := .engine :: rest } = .next t ∧
    run (accs.length + 1) { s with schedule := accs.map .host ++ .engine :: rest } = .next t' ∧
    t' = { t with ovr := t'.ovr, responses := t'.responses, draws := t'.draws } ∧
    t'.ovr = (t.ovr || accs.any legalWrite)

/-- R22, R258: ERR and OVR are sticky. A step in which ERR falls is a 32-bit host write to STATUS with
bit 1 set while BUSY = 0, and one in which OVR falls is such a write with bit 2 set. -/
def Obligations.StickyFlagsClearedOnlyByStatusWrite : Prop :=
  ∀ s t : State, step s = .next t →
    (s.err = true → t.err = false → s.busy = false ∧ ∃ data rest,
      s.schedule = .host (.write .w32 0x004 data) :: rest ∧ data.getLsbD 1 = true) ∧
    (s.ovr = true → t.ovr = false → s.busy = false ∧ ∃ data rest,
      s.schedule = .host (.write .w32 0x004 data) :: rest ∧ data.getLsbD 2 = true)

/-- R23, R34: a step that changes the round-key RAM or the descriptor completes the command word
0x43000000 (KEXP) with KEYLEN 16, 24 or 32, and leaves KSV = 1. -/
def Obligations.ScheduleChangedOnlyByKexp : Prop :=
  ∀ s t : State, step s = .next t → (t.rk ≠ s.rk ∨ t.ksched ≠ s.ksched) →
    s.busy = true ∧ s.cmd = 0x43000000 ∧ s.keylen ∈ ([16, 24, 32] : List Byte) ∧ t.ksv = true ∧
    (s.schedule = [] ∨ ∃ rest, s.schedule = .engine :: rest)

/-- Every step keeps two machines equal but for a hidden round-key RAM: equal in every other field, and
in the RAM too once a schedule is held. The answers the host has got and what every register reads are
then the same in both. This is the step behind R283. -/
def Obligations.StepKeepsSameButHiddenRam : Prop :=
  ∀ s s' : State, SameButHiddenRam s s' →
    ∃ t t', step s = .next t ∧ step s' = .next t' ∧ SameButHiddenRam t t' ∧
      t'.responses = t.responses ∧ ∀ reg, readReg reg t' = readReg reg t
end

