-- ==== Sys2Proof/Laws/State.lean ====
section
/-! SUPPORT. One lemma per field per named update of State, so that no later proof unfolds one. -/

namespace Sys2Proof.Machine

/-! ### complete: success completion (R254) -/

@[simp] theorem complete_busy (s : State) : (complete s).busy = false := rfl
@[simp] theorem complete_err (s : State) : (complete s).err = s.err := rfl
@[simp] theorem complete_ovr (s : State) : (complete s).ovr = s.ovr := rfl
@[simp] theorem complete_lastErr (s : State) : (complete s).lastErr = none := rfl
@[simp] theorem complete_ksched (s : State) : (complete s).ksched = s.ksched := rfl
@[simp] theorem complete_cmd (s : State) : (complete s).cmd = s.cmd := rfl
@[simp] theorem complete_opa (s : State) : (complete s).opa = s.opa := rfl
@[simp] theorem complete_opb (s : State) : (complete s).opb = s.opb := rfl
@[simp] theorem complete_resl (s : State) : (complete s).resl = s.resl := rfl
@[simp] theorem complete_resh (s : State) : (complete s).resh = s.resh := rfl
@[simp] theorem complete_keylen (s : State) : (complete s).keylen = s.keylen := rfl
@[simp] theorem complete_blklen (s : State) : (complete s).blklen = s.blklen := rfl
@[simp] theorem complete_state (s : State) : (complete s).state = s.state := rfl
@[simp] theorem complete_key (s : State) : (complete s).key = s.key := rfl
@[simp] theorem complete_rk (s : State) : (complete s).rk = s.rk := rfl
@[simp] theorem complete_schedule (s : State) : (complete s).schedule = s.schedule := rfl
@[simp] theorem complete_responses (s : State) : (complete s).responses = s.responses := rfl
@[simp] theorem complete_draws (s : State) : (complete s).draws = s.draws := rfl

/-! ### raise: error completion (R253) -/

@[simp] theorem raise_busy (e : EngineError) (s : State) : (raise e s).busy = false := rfl
@[simp] theorem raise_err (e : EngineError) (s : State) : (raise e s).err = true := rfl
@[simp] theorem raise_ovr (e : EngineError) (s : State) : (raise e s).ovr = s.ovr := rfl
@[simp] theorem raise_lastErr (e : EngineError) (s : State) : (raise e s).lastErr = some e := rfl
@[simp] theorem raise_ksched (e : EngineError) (s : State) : (raise e s).ksched = s.ksched := rfl
@[simp] theorem raise_cmd (e : EngineError) (s : State) : (raise e s).cmd = s.cmd := rfl
@[simp] theorem raise_opa (e : EngineError) (s : State) : (raise e s).opa = s.opa := rfl
@[simp] theorem raise_opb (e : EngineError) (s : State) : (raise e s).opb = s.opb := rfl
@[simp] theorem raise_resl (e : EngineError) (s : State) : (raise e s).resl = s.resl := rfl
@[simp] theorem raise_resh (e : EngineError) (s : State) : (raise e s).resh = s.resh := rfl
@[simp] theorem raise_keylen (e : EngineError) (s : State) : (raise e s).keylen = s.keylen := rfl
@[simp] theorem raise_blklen (e : EngineError) (s : State) : (raise e s).blklen = s.blklen := rfl
@[simp] theorem raise_state (e : EngineError) (s : State) : (raise e s).state = s.state := rfl
@[simp] theorem raise_key (e : EngineError) (s : State) : (raise e s).key = s.key := rfl
@[simp] theorem raise_rk (e : EngineError) (s : State) : (raise e s).rk = s.rk := rfl
@[simp] theorem raise_schedule (e : EngineError) (s : State) : (raise e s).schedule = s.schedule := rfl
@[simp] theorem raise_responses (e : EngineError) (s : State) : (raise e s).responses = s.responses := rfl
@[simp] theorem raise_draws (e : EngineError) (s : State) : (raise e s).draws = s.draws := rfl

/-! ### writeResult: the result registers (R27, R28) -/

@[simp] theorem writeResult_busy (lo hi : Word) (s : State) : (writeResult lo hi s).busy = s.busy := rfl
@[simp] theorem writeResult_err (lo hi : Word) (s : State) : (writeResult lo hi s).err = s.err := rfl
@[simp] theorem writeResult_ovr (lo hi : Word) (s : State) : (writeResult lo hi s).ovr = s.ovr := rfl
@[simp] theorem writeResult_lastErr (lo hi : Word) (s : State) : (writeResult lo hi s).lastErr = s.lastErr := rfl
@[simp] theorem writeResult_ksched (lo hi : Word) (s : State) : (writeResult lo hi s).ksched = s.ksched := rfl
@[simp] theorem writeResult_cmd (lo hi : Word) (s : State) : (writeResult lo hi s).cmd = s.cmd := rfl
@[simp] theorem writeResult_opa (lo hi : Word) (s : State) : (writeResult lo hi s).opa = s.opa := rfl
@[simp] theorem writeResult_opb (lo hi : Word) (s : State) : (writeResult lo hi s).opb = s.opb := rfl
@[simp] theorem writeResult_resl (lo hi : Word) (s : State) : (writeResult lo hi s).resl = lo := rfl
@[simp] theorem writeResult_resh (lo hi : Word) (s : State) : (writeResult lo hi s).resh = hi := rfl
@[simp] theorem writeResult_keylen (lo hi : Word) (s : State) : (writeResult lo hi s).keylen = s.keylen := rfl
@[simp] theorem writeResult_blklen (lo hi : Word) (s : State) : (writeResult lo hi s).blklen = s.blklen := rfl
@[simp] theorem writeResult_state (lo hi : Word) (s : State) : (writeResult lo hi s).state = s.state := rfl
@[simp] theorem writeResult_key (lo hi : Word) (s : State) : (writeResult lo hi s).key = s.key := rfl
@[simp] theorem writeResult_rk (lo hi : Word) (s : State) : (writeResult lo hi s).rk = s.rk := rfl
@[simp] theorem writeResult_schedule (lo hi : Word) (s : State) : (writeResult lo hi s).schedule = s.schedule := rfl
@[simp] theorem writeResult_responses (lo hi : Word) (s : State) : (writeResult lo hi s).responses = s.responses := rfl
@[simp] theorem writeResult_draws (lo hi : Word) (s : State) : (writeResult lo hi s).draws = s.draws := rfl

/-! ### writeState: STATE (R31) -/

@[simp] theorem writeState_busy (st : Vector Word 4) (s : State) : (writeState st s).busy = s.busy := rfl
@[simp] theorem writeState_err (st : Vector Word 4) (s : State) : (writeState st s).err = s.err := rfl
@[simp] theorem writeState_ovr (st : Vector Word 4) (s : State) : (writeState st s).ovr = s.ovr := rfl
@[simp] theorem writeState_lastErr (st : Vector Word 4) (s : State) : (writeState st s).lastErr = s.lastErr := rfl
@[simp] theorem writeState_ksched (st : Vector Word 4) (s : State) : (writeState st s).ksched = s.ksched := rfl
@[simp] theorem writeState_cmd (st : Vector Word 4) (s : State) : (writeState st s).cmd = s.cmd := rfl
@[simp] theorem writeState_opa (st : Vector Word 4) (s : State) : (writeState st s).opa = s.opa := rfl
@[simp] theorem writeState_opb (st : Vector Word 4) (s : State) : (writeState st s).opb = s.opb := rfl
@[simp] theorem writeState_resl (st : Vector Word 4) (s : State) : (writeState st s).resl = s.resl := rfl
@[simp] theorem writeState_resh (st : Vector Word 4) (s : State) : (writeState st s).resh = s.resh := rfl
@[simp] theorem writeState_keylen (st : Vector Word 4) (s : State) : (writeState st s).keylen = s.keylen := rfl
@[simp] theorem writeState_blklen (st : Vector Word 4) (s : State) : (writeState st s).blklen = s.blklen := rfl
@[simp] theorem writeState_state (st : Vector Word 4) (s : State) : (writeState st s).state = st := rfl
@[simp] theorem writeState_key (st : Vector Word 4) (s : State) : (writeState st s).key = s.key := rfl
@[simp] theorem writeState_rk (st : Vector Word 4) (s : State) : (writeState st s).rk = s.rk := rfl
@[simp] theorem writeState_schedule (st : Vector Word 4) (s : State) : (writeState st s).schedule = s.schedule := rfl
@[simp] theorem writeState_responses (st : Vector Word 4) (s : State) : (writeState st s).responses = s.responses := rfl
@[simp] theorem writeState_draws (st : Vector Word 4) (s : State) : (writeState st s).draws = s.draws := rfl

/-! ### clearFlags: a STATUS write (R56) -/

@[simp] theorem clearFlags_busy (d : Word) (s : State) : (clearFlags d s).busy = s.busy := rfl
@[simp] theorem clearFlags_err (d : Word) (s : State) : (clearFlags d s).err = (s.err && !d.getLsbD 1) := rfl
@[simp] theorem clearFlags_ovr (d : Word) (s : State) : (clearFlags d s).ovr = (s.ovr && !d.getLsbD 2) := rfl
@[simp] theorem clearFlags_lastErr (d : Word) (s : State) : (clearFlags d s).lastErr = s.lastErr := rfl
@[simp] theorem clearFlags_ksched (d : Word) (s : State) : (clearFlags d s).ksched = s.ksched := rfl
@[simp] theorem clearFlags_cmd (d : Word) (s : State) : (clearFlags d s).cmd = s.cmd := rfl
@[simp] theorem clearFlags_opa (d : Word) (s : State) : (clearFlags d s).opa = s.opa := rfl
@[simp] theorem clearFlags_opb (d : Word) (s : State) : (clearFlags d s).opb = s.opb := rfl
@[simp] theorem clearFlags_resl (d : Word) (s : State) : (clearFlags d s).resl = s.resl := rfl
@[simp] theorem clearFlags_resh (d : Word) (s : State) : (clearFlags d s).resh = s.resh := rfl
@[simp] theorem clearFlags_keylen (d : Word) (s : State) : (clearFlags d s).keylen = s.keylen := rfl
@[simp] theorem clearFlags_blklen (d : Word) (s : State) : (clearFlags d s).blklen = s.blklen := rfl
@[simp] theorem clearFlags_state (d : Word) (s : State) : (clearFlags d s).state = s.state := rfl
@[simp] theorem clearFlags_key (d : Word) (s : State) : (clearFlags d s).key = s.key := rfl
@[simp] theorem clearFlags_rk (d : Word) (s : State) : (clearFlags d s).rk = s.rk := rfl
@[simp] theorem clearFlags_schedule (d : Word) (s : State) : (clearFlags d s).schedule = s.schedule := rfl
@[simp] theorem clearFlags_responses (d : Word) (s : State) : (clearFlags d s).responses = s.responses := rfl
@[simp] theorem clearFlags_draws (d : Word) (s : State) : (clearFlags d s).draws = s.draws := rfl

/-! ### accept: acceptance (R24) -/

@[simp] theorem accept_busy (w : Word) (s : State) : (accept w s).busy = true := rfl
@[simp] theorem accept_err (w : Word) (s : State) : (accept w s).err = s.err := rfl
@[simp] theorem accept_ovr (w : Word) (s : State) : (accept w s).ovr = s.ovr := rfl
@[simp] theorem accept_lastErr (w : Word) (s : State) : (accept w s).lastErr = s.lastErr := rfl
@[simp] theorem accept_ksched (w : Word) (s : State) : (accept w s).ksched = s.ksched := rfl
@[simp] theorem accept_cmd (w : Word) (s : State) : (accept w s).cmd = w := rfl
@[simp] theorem accept_opa (w : Word) (s : State) : (accept w s).opa = s.opa := rfl
@[simp] theorem accept_opb (w : Word) (s : State) : (accept w s).opb = s.opb := rfl
@[simp] theorem accept_resl (w : Word) (s : State) : (accept w s).resl = s.resl := rfl
@[simp] theorem accept_resh (w : Word) (s : State) : (accept w s).resh = s.resh := rfl
@[simp] theorem accept_keylen (w : Word) (s : State) : (accept w s).keylen = s.keylen := rfl
@[simp] theorem accept_blklen (w : Word) (s : State) : (accept w s).blklen = s.blklen := rfl
@[simp] theorem accept_state (w : Word) (s : State) : (accept w s).state = s.state := rfl
@[simp] theorem accept_key (w : Word) (s : State) : (accept w s).key = s.key := rfl
@[simp] theorem accept_rk (w : Word) (s : State) : (accept w s).rk = s.rk := rfl
@[simp] theorem accept_schedule (w : Word) (s : State) : (accept w s).schedule = s.schedule := rfl
@[simp] theorem accept_responses (w : Word) (s : State) : (accept w s).responses = s.responses := rfl
@[simp] theorem accept_draws (w : Word) (s : State) : (accept w s).draws = s.draws := rfl

/-! ### respond: a bus response -/

@[simp] theorem respond_busy (r : BusResponse) (s : State) : (respond r s).busy = s.busy := rfl
@[simp] theorem respond_err (r : BusResponse) (s : State) : (respond r s).err = s.err := rfl
@[simp] theorem respond_ovr (r : BusResponse) (s : State) : (respond r s).ovr = s.ovr := rfl
@[simp] theorem respond_lastErr (r : BusResponse) (s : State) : (respond r s).lastErr = s.lastErr := rfl
@[simp] theorem respond_ksched (r : BusResponse) (s : State) : (respond r s).ksched = s.ksched := rfl
@[simp] theorem respond_cmd (r : BusResponse) (s : State) : (respond r s).cmd = s.cmd := rfl
@[simp] theorem respond_opa (r : BusResponse) (s : State) : (respond r s).opa = s.opa := rfl
@[simp] theorem respond_opb (r : BusResponse) (s : State) : (respond r s).opb = s.opb := rfl
@[simp] theorem respond_resl (r : BusResponse) (s : State) : (respond r s).resl = s.resl := rfl
@[simp] theorem respond_resh (r : BusResponse) (s : State) : (respond r s).resh = s.resh := rfl
@[simp] theorem respond_keylen (r : BusResponse) (s : State) : (respond r s).keylen = s.keylen := rfl
@[simp] theorem respond_blklen (r : BusResponse) (s : State) : (respond r s).blklen = s.blklen := rfl
@[simp] theorem respond_state (r : BusResponse) (s : State) : (respond r s).state = s.state := rfl
@[simp] theorem respond_key (r : BusResponse) (s : State) : (respond r s).key = s.key := rfl
@[simp] theorem respond_rk (r : BusResponse) (s : State) : (respond r s).rk = s.rk := rfl
@[simp] theorem respond_schedule (r : BusResponse) (s : State) : (respond r s).schedule = s.schedule := rfl
@[simp] theorem respond_responses (r : BusResponse) (s : State) : (respond r s).responses = r :: s.responses := rfl
@[simp] theorem respond_draws (r : BusResponse) (s : State) : (respond r s).draws = s.draws := rfl

/-! ### submit: further turns -/

@[simp] theorem submit_busy (ts : List Turn) (s : State) : (s.submit ts).busy = s.busy := rfl
@[simp] theorem submit_err (ts : List Turn) (s : State) : (s.submit ts).err = s.err := rfl
@[simp] theorem submit_ovr (ts : List Turn) (s : State) : (s.submit ts).ovr = s.ovr := rfl
@[simp] theorem submit_lastErr (ts : List Turn) (s : State) : (s.submit ts).lastErr = s.lastErr := rfl
@[simp] theorem submit_ksched (ts : List Turn) (s : State) : (s.submit ts).ksched = s.ksched := rfl
@[simp] theorem submit_cmd (ts : List Turn) (s : State) : (s.submit ts).cmd = s.cmd := rfl
@[simp] theorem submit_opa (ts : List Turn) (s : State) : (s.submit ts).opa = s.opa := rfl
@[simp] theorem submit_opb (ts : List Turn) (s : State) : (s.submit ts).opb = s.opb := rfl
@[simp] theorem submit_resl (ts : List Turn) (s : State) : (s.submit ts).resl = s.resl := rfl
@[simp] theorem submit_resh (ts : List Turn) (s : State) : (s.submit ts).resh = s.resh := rfl
@[simp] theorem submit_keylen (ts : List Turn) (s : State) : (s.submit ts).keylen = s.keylen := rfl
@[simp] theorem submit_blklen (ts : List Turn) (s : State) : (s.submit ts).blklen = s.blklen := rfl
@[simp] theorem submit_state (ts : List Turn) (s : State) : (s.submit ts).state = s.state := rfl
@[simp] theorem submit_key (ts : List Turn) (s : State) : (s.submit ts).key = s.key := rfl
@[simp] theorem submit_rk (ts : List Turn) (s : State) : (s.submit ts).rk = s.rk := rfl
@[simp] theorem submit_schedule (ts : List Turn) (s : State) : (s.submit ts).schedule = s.schedule ++ ts := rfl
@[simp] theorem submit_responses (ts : List Turn) (s : State) : (s.submit ts).responses = s.responses := rfl
@[simp] theorem submit_draws (ts : List Turn) (s : State) : (s.submit ts).draws = s.draws := rfl

/-! ### Views that do not see an update -/

@[simp] theorem nr_respond (r : BusResponse) (s : State) : (respond r s).nr = s.nr := rfl
@[simp] theorem ksv_respond (r : BusResponse) (s : State) : (respond r s).ksv = s.ksv := rfl
@[simp] theorem readReg_respond (reg : WindowReg) (r : BusResponse) (s : State) :
    readReg reg (respond r s) = readReg reg s := by cases reg <;> rfl

/-- A window read sees no field of the model's own. -/
theorem readReg_ownFields (reg : WindowReg) (s : State) (sc : List Turn) (rs : List BusResponse) (n : Nat) :
    readReg reg { s with schedule := sc, responses := rs, draws := n } = readReg reg s := by
  cases reg <;> rfl

/-! ### The views of the schedule descriptor -/

theorem ksv_eq_false_iff (s : State) : s.ksv = false ↔ s.ksched = none := by
  cases h : s.ksched <;> simp [State.ksv, h]

theorem ksv_eq_true_iff (s : State) : s.ksv = true ↔ ∃ k, s.ksched = some k := by
  cases h : s.ksched <;> simp [State.ksv, h]

theorem nr_of_ksched {s : State} {k : KeySize} (h : s.ksched = some k) : s.nr = k.nr := by
  simp [State.nr, h]

theorem nr_le (s : State) : s.nr ≤ 14 := by
  rcases h : s.ksched with _ | k
  · simp [State.nr, h]
  · cases k <;> simp [State.nr, h, KeySize.nr]

theorem KeySize.nr_pos (k : KeySize) : 0 < k.nr := by cases k <;> decide
theorem KeySize.nk_pos (k : KeySize) : 0 < k.nk := by cases k <;> decide

/-- The key words are part of the schedule. -/
theorem KeySize.nk_le (k : KeySize) : k.nk ≤ 4 * (k.nr + 1) := by cases k <;> decide

/-- The schedule fits in the round-key RAM (R10). -/
theorem KeySize.words_le (k : KeySize) : 4 * (k.nr + 1) ≤ 60 := by cases k <;> decide

/-- KEXP accepts the lengths 16, 24 and 32 and no other (R173). -/
theorem keySizeOf_eq_none_iff (kl : Byte) : keySizeOf kl = none ↔ kl ≠ 16 ∧ kl ≠ 24 ∧ kl ≠ 32 := by
  unfold keySizeOf
  split
  · simp_all
  · split
    · simp_all
    · split <;> simp_all

end Sys2Proof.Machine
end

