-- ==== Sys2Proof/Laws/Ops.lean ====
section
/-! SUPPORT. What each shared operation can do, said once: the two completions, a host access, the
register map, and the block commands' checks. -/

namespace Sys2Proof.Machine

/-! ### Completions -/

theorem succeed_eq (s : State) : succeed s = .next (complete s) := rfl
theorem fail_eq (e : EngineError) (s : State) : fail e s = .next (raise e s) := rfl

/-- Completing twice is completing once. -/
@[simp] theorem complete_complete (s : State) : complete (complete s) = complete s := rfl

/-! ### The register map -/

theorem regAt_offset (reg : WindowReg) : regAt reg.offset = some reg := by
  cases reg with
  | state c => revert c; decide
  | key k => revert k; decide
  | rkw i => revert i; decide
  | _ => rfl

@[simp] theorem legalTarget_offset (reg : WindowReg) : legalTarget .w32 reg.offset = some reg :=
  regAt_offset reg

/-- An access is legal exactly when it is 32 bits wide and its offset names a register (R53). -/
theorem legalTarget_eq_some_iff (width : AccessWidth) (off : Offset) (reg : WindowReg) :
    legalTarget width off = some reg ↔ width = .w32 ∧ regAt off = some reg := by
  cases width <;> simp [legalTarget]

/-! ### Host accesses -/

/-- A refused access only answers (R53). -/
theorem hostAccess_of_busError {a : HostAccess} {s : State}
    (h : ∀ width off, (a = .read width off ∨ ∃ d, a = .write width off d) →
      legalTarget width off = none) :
    hostAccess a s = respond (match a with | .read _ _ => .read true 0 | .write _ _ _ => .write true) s := by
  cases a with
  | read width off => simp [hostAccess, hostRead, h width off (.inl rfl)]
  | write width off d => simp [hostAccess, hostWrite, h width off (.inr ⟨d, rfl⟩)]

/-- Everything a read can do (R53, R56, R62): it answers, and at most draws a value. -/
theorem hostRead_cases (width : AccessWidth) (off : Offset) (s : State) :
    (legalTarget width off = none ∧ hostRead width off s = respond (.read true 0) s) ∨
    (∃ reg, legalTarget width off = some reg ∧ s.busy = true ∧ reg.unspecifiedWhileBusy = true ∧
      hostRead width off s = busyRead s) ∨
    (∃ reg, legalTarget width off = some reg ∧ (s.busy && reg.unspecifiedWhileBusy) = false ∧
      hostRead width off s = respond (.read false (readReg reg s)) s) := by
  rcases ht : legalTarget width off with _ | reg
  · exact .inl ⟨rfl, by simp [hostRead, ht]⟩
  · rcases hb : (s.busy && reg.unspecifiedWhileBusy) with _ | _
    · exact .inr (.inr ⟨reg, rfl, hb, by simp [hostRead, ht, hb]⟩)
    · rw [Bool.and_eq_true] at hb
      exact .inr (.inl ⟨reg, rfl, hb.1, hb.2, by simp [hostRead, ht, hb]⟩)

/-- Everything a write can do (R53, R61): it answers, and sets OVR while busy or writes the register
while idle. -/
theorem hostWrite_cases (width : AccessWidth) (off : Offset) (d : Word) (s : State) :
    (legalTarget width off = none ∧ hostWrite width off d s = respond (.write true) s) ∨
    (∃ reg, legalTarget width off = some reg ∧ s.busy = true ∧
      hostWrite width off d s = respond (.write false) { s with ovr := true }) ∨
    (∃ reg, legalTarget width off = some reg ∧ s.busy = false ∧
      hostWrite width off d s = respond (.write false) (writeReg reg d s)) := by
  rcases ht : legalTarget width off with _ | reg
  · exact .inl ⟨rfl, by simp [hostWrite, ht]⟩
  · rcases hb : s.busy with _ | _
    · exact .inr (.inr ⟨reg, rfl, rfl, by simp [hostWrite, ht, hb]⟩)
    · exact .inr (.inl ⟨reg, rfl, rfl, by simp [hostWrite, ht, hb]⟩)

/-- A host write never touches the results of a command, the schedule or the descriptor. -/
theorem writeReg_keeps (reg : WindowReg) (d : Word) (s : State) :
    (writeReg reg d s).resl = s.resl ∧ (writeReg reg d s).resh = s.resh ∧
    (writeReg reg d s).rk = s.rk ∧ (writeReg reg d s).ksched = s.ksched ∧
    (writeReg reg d s).lastErr = s.lastErr ∧ (writeReg reg d s).schedule = s.schedule ∧
    (writeReg reg d s).responses = s.responses ∧ (writeReg reg d s).draws = s.draws := by
  cases reg <;> simp [writeReg]

/-- A host access while BUSY = 1 changes OVR and what belongs to the host, and nothing else (R61,
R62). -/
theorem hostAccess_busy {s : State} (a : HostAccess) (hb : s.busy = true) :
    ∃ o rs n, hostAccess a s = { s with ovr := o, responses := rs, draws := n } := by
  cases a with
  | read width off =>
    rcases hostRead_cases width off s with ⟨_, h⟩ | ⟨_, _, _, _, h⟩ | ⟨_, _, _, h⟩ <;>
      exact ⟨_, _, _, by rw [hostAccess, h]; rfl⟩
  | write width off d =>
    rcases hostWrite_cases width off d s with ⟨_, h⟩ | ⟨_, _, _, h⟩ | ⟨_, _, hf, _⟩
    · exact ⟨_, _, _, by rw [hostAccess, h]; rfl⟩
    · exact ⟨_, _, _, by rw [hostAccess, h]; rfl⟩
    · rw [hb] at hf; cases hf

/-! ### The block commands -/

/-- Everything ENC and DEC can do (R217, R218). -/
theorem withBlock_cases (f : Vector Word 60 → Nat → Vector Word 4 → Vector Word 4) (s : State) :
    (s.blklen ≠ 16 ∧ withBlock f s = fail .invalidBlockLength s) ∨
    (s.blklen = 16 ∧ s.ksched = none ∧ withBlock f s = fail .noKeySchedule s) ∨
    (∃ k, s.blklen = 16 ∧ s.ksched = some k ∧
      withBlock f s = succeed (writeState (f s.rk k.nr s.state) s)) := by
  by_cases hb : s.blklen = 16
  · rcases hk : s.ksched with _ | k
    · exact .inr (.inl ⟨hb, rfl, by simp [withBlock, hb, hk]⟩)
    · exact .inr (.inr ⟨k, hb, rfl, by simp [withBlock, hb, hk]⟩)
  · exact .inl ⟨hb, by rw [withBlock, if_pos hb]⟩

end Sys2Proof.Machine
end

