-- ==== Sys2Proof/Laws/Exec.lean ====
section
/-! SUPPORT. What a command, an engine turn and a step can do, said once for all of them. -/

namespace Sys2Proof.Machine

/-- Everything a command can do (R253, R254): an error completion, or a success completion after it
wrote some of RESL, RESH, STATE, RK and the descriptor. -/
theorem exec_cases (i : Instr) (s : State) :
    (∃ e, exec i s = .next (raise e s)) ∨
    (∃ lo hi st rk ks, exec i s = .next (complete
      { s with resl := lo, resh := hi, state := st, rk := rk, ksched := ks })) := by
  cases i with
  | pmod =>
    by_cases h : s.opb = 0
    · exact .inl ⟨_, by rw [exec, execPmod, if_pos h]; rfl⟩
    · exact .inr ⟨_, _, _, _, _, by rw [exec, execPmod, if_neg h]; rfl⟩
  | pcoef idx =>
    by_cases h : idx < 0
    · exact .inl ⟨_, by rw [exec, execPcoef, if_pos h]; rfl⟩
    · by_cases hc : coeff s.opa.toNat idx.toNat = true
      · exact .inr ⟨_, _, _, _, _, by rw [exec, execPcoef, if_neg h, if_pos hc]; rfl⟩
      · exact .inr ⟨_, _, _, _, _, by rw [exec, execPcoef, if_neg h, if_neg hc]; rfl⟩
  | rcon j =>
    by_cases h : j = 0
    · exact .inl ⟨_, by rw [exec, execRcon, if_pos h]; rfl⟩
    · exact .inr ⟨_, _, _, _, _, by rw [exec, execRcon, if_neg h]; rfl⟩
  | kexp =>
    rcases h : keySizeOf s.keylen with _ | k
    · exact .inl ⟨_, by rw [exec, execKexp, h]; rfl⟩
    · exact .inr ⟨_, _, _, _, _, by rw [exec, execKexp, h]; rfl⟩
  | ark r =>
    rcases h : s.ksched with _ | k
    · exact .inl ⟨_, by rw [exec, execArk, h]; rfl⟩
    · by_cases hr : k.nr < r
      · exact .inl ⟨.badRound, by rw [exec, execArk, h]; exact if_pos hr⟩
      · exact .inr ⟨s.resl, s.resh, addRoundKey s.rk r s.state, s.rk, s.ksched, by
          rw [exec, execArk]; simp only [h]; rw [if_neg hr]; simp [succeed, writeState, ← h]⟩
  | enc =>
    rcases withBlock_cases cipher s with ⟨_, h⟩ | ⟨_, _, h⟩ | ⟨_, _, _, h⟩
    · exact .inl ⟨_, by rw [exec, execEnc, h]; rfl⟩
    · exact .inl ⟨_, by rw [exec, execEnc, h]; rfl⟩
    · exact .inr ⟨_, _, _, _, _, by rw [exec, execEnc, h]; rfl⟩
  | dec =>
    rcases withBlock_cases invCipher s with ⟨_, h⟩ | ⟨_, _, h⟩ | ⟨_, _, _, h⟩
    · exact .inl ⟨_, by rw [exec, execDec, h]; rfl⟩
    · exact .inl ⟨_, by rw [exec, execDec, h]; rfl⟩
    · exact .inr ⟨_, _, _, _, _, by rw [exec, execDec, h]; rfl⟩
  | _ => exact .inr ⟨_, _, _, _, _, rfl⟩

/-- Everything the completion of the word in flight can do. -/
theorem completeCommand_cases (s : State) :
    (∃ i, decode s.cmd = .ok i ∧ completeCommand s = exec i s) ∨
    (∃ why, decode s.cmd = .error why ∧ completeCommand s = .next (raise .illegalCommand s)) := by
  rcases h : decode s.cmd with why | i
  · exact .inr ⟨why, rfl, by simp [completeCommand, fetchWord, h, fail]⟩
  · exact .inl ⟨i, rfl, by simp [completeCommand, fetchWord, h]⟩

/-- Everything a step can do (R20): the engine's turn, or one host access. -/
theorem step_cases (s : State) :
    (s.schedule = [] ∧ step s = engineTurn s) ∨
    (∃ rest, s.schedule = .engine :: rest ∧ step s = engineTurn { s with schedule := rest }) ∨
    (∃ a rest, s.schedule = .host a :: rest ∧
      step s = .next (hostAccess a { s with schedule := rest })) := by
  rcases h : s.schedule with _ | ⟨t, rest⟩
  · exact .inl ⟨rfl, by simp [step, h]⟩
  · rcases t with a | _
    · exact .inr (.inr ⟨a, rest, rfl, by simp [step, h, takeTurn]⟩)
    · exact .inr (.inl ⟨rest, rfl, by simp [step, h, takeTurn]⟩)

/-- The word `withFetchWord` places runs at the very next step. -/
theorem step_withFetchWord (s : State) (nbits w : Nat) :
    step (s.withFetchWord nbits w) =
      completeCommand { s with cmd := BitVec.ofNat 32 (w % 2 ^ nbits), busy := true } := by
  simp [step, State.withFetchWord, withCommandInFlight, takeTurn, engineTurn, accept]

end Sys2Proof.Machine
end

