-- ==== Sys2Proof/Laws/Polynomial.lean ====
section
/-! SUPPORT. The polynomial helpers seen in the ring (ZMod 2)[X]: bit `i` of a natural number is the
coefficient of X^i (R12), XOR is addition, `clmul` multiplication, and `pmod` division with
remainder. -/

namespace Sys2Proof.Machine

open Polynomial

/-- The polynomial a natural number stands for (R12). -/
noncomputable def toPoly (n : Nat) : (ZMod 2)[X] :=
  ∑ i ∈ Finset.range (n.log2 + 1), if n.testBit i then X ^ i else 0

theorem testBit_eq_false_of_log2_lt {n i : Nat} (h : n.log2 < i) : n.testBit i = false :=
  Nat.testBit_lt_two_pow (lt_of_lt_of_le Nat.lt_log2_self (Nat.pow_le_pow_right (by decide) h))

theorem coeff_toPoly (n k : Nat) : (toPoly n).coeff k = if n.testBit k then 1 else 0 := by
  rw [toPoly, finsetSum_coeff]
  have hterm : ∀ i ∈ Finset.range (n.log2 + 1),
      (if n.testBit i then (X : (ZMod 2)[X]) ^ i else 0).coeff k =
        if k = i then (if n.testBit k then 1 else 0) else 0 := by
    intro i _
    by_cases hki : k = i
    · subst hki; split <;> simp
    · split <;> simp [coeff_X_pow, hki]
  rw [Finset.sum_congr rfl hterm, Finset.sum_ite_eq]
  by_cases hk : k ∈ Finset.range (n.log2 + 1)
  · rw [if_pos hk]
  · rw [if_neg hk, testBit_eq_false_of_log2_lt (by simpa using hk)]
    simp

theorem toPoly_injective : Function.Injective toPoly := by
  intro a b h
  apply Nat.eq_of_testBit_eq
  intro i
  have hc := congrArg (fun p => p.coeff i) h
  simp only [coeff_toPoly] at hc
  cases ha : a.testBit i <;> cases hb : b.testBit i <;> simp_all

@[simp] theorem toPoly_zero : toPoly 0 = 0 := by
  ext i; simp [coeff_toPoly]

@[simp] theorem toPoly_one : toPoly 1 = 1 := by
  ext i; simp [coeff_toPoly, coeff_one, Nat.testBit_one_eq_true_iff_self_eq_zero]

theorem toPoly_eq_zero_iff {n : Nat} : toPoly n = 0 ↔ n = 0 := by
  rw [← toPoly_zero]; exact toPoly_injective.eq_iff

/-- XOR is addition (R13). -/
@[simp] theorem toPoly_xor (a b : Nat) : toPoly (a ^^^ b) = toPoly a + toPoly b := by
  ext i
  rw [coeff_add, coeff_toPoly, coeff_toPoly, coeff_toPoly, Nat.testBit_xor]
  cases a.testBit i <;> cases b.testBit i <;> decide

/-- A left shift is multiplication by a power of X. -/
@[simp] theorem toPoly_shiftLeft (a n : Nat) : toPoly (a <<< n) = toPoly a * X ^ n := by
  ext i
  rw [coeff_mul_X_pow', coeff_toPoly, Nat.testBit_shiftLeft]
  by_cases h : n ≤ i
  · simp [h, coeff_toPoly]
  · simp [h]

theorem toPoly_clmulBelow (a b n : Nat) :
    toPoly (clmulBelow a b n) =
      toPoly a * ∑ i ∈ Finset.range n, if b.testBit i then X ^ i else 0 := by
  induction n with
  | zero => simp [clmulBelow]
  | succ n ih =>
    rw [clmulBelow, toPoly_xor, ih, Finset.sum_range_succ, mul_add]
    congr 1
    split <;> simp

/-- `clmul` is the product of polynomials (R102). -/
@[simp] theorem toPoly_clmul (a b : Nat) : toPoly (clmul a b) = toPoly a * toPoly b :=
  toPoly_clmulBelow a b (b.log2 + 1)

theorem natDegree_toPoly (n : Nat) : (toPoly n).natDegree = n.log2 := by
  by_cases h : n = 0
  · subst h; simp
  · apply natDegree_eq_of_le_of_coeff_ne_zero
    · rw [natDegree_le_iff_coeff_eq_zero]
      intro i hi
      rw [coeff_toPoly, testBit_eq_false_of_log2_lt hi]
      simp
    · rw [coeff_toPoly, Nat.testBit_log2 h]
      simp

/-- What an unset bit position stands for when the bit is set by OR. -/
theorem or_two_pow_eq_xor {q s : Nat} (h : q.testBit s = false) : q ||| (1 <<< s) = q ^^^ (1 <<< s) := by
  apply Nat.eq_of_testBit_eq
  intro i
  simp only [Nat.testBit_or, Nat.testBit_xor, Nat.testBit_shiftLeft]
  by_cases hi : i = s
  · subst hi; simp [h]
  · by_cases hs : s ≤ i
    · have h1 : Nat.testBit 1 (i - s) = false := by
        rw [Bool.eq_false_iff]
        intro hb
        have := Nat.testBit_one_eq_true_iff_self_eq_zero.1 hb
        omega
      simp [h1]
    · simp [hs]

/-- One pass of the loop clears the leading term of the remainder (R103). -/
theorem log2_pass_lt {r d : Nat} (hr : r ≠ 0) (hd : d ≠ 0) (h : d.log2 ≤ r.log2)
    (h0 : r ^^^ (d <<< (r.log2 - d.log2)) ≠ 0) :
    (r ^^^ (d <<< (r.log2 - d.log2))).log2 < r.log2 := by
  have hlt : r ^^^ (d <<< (r.log2 - d.log2)) < 2 ^ r.log2 := by
    apply Nat.lt_pow_two_of_testBit
    intro i hi
    rw [Nat.testBit_xor, Nat.testBit_shiftLeft]
    rcases Nat.lt_or_eq_of_le hi with hlt | rfl
    · rw [testBit_eq_false_of_log2_lt hlt, testBit_eq_false_of_log2_lt (n := d) (by omega)]
      simp
    · rw [Nat.testBit_log2 hr, show r.log2 - (r.log2 - d.log2) = d.log2 by omega, Nat.testBit_log2 hd]
      simp
  exact (Nat.log2_lt h0).2 hlt

/-- The loop of R103, whatever quotient it starts from: it keeps `r + q d`, and ends below the
divisor's degree. -/
theorem pmodLoop_spec {d : Nat} (hd : d ≠ 0) :
    ∀ (fuel r q : Nat), (r = 0 ∨ r.log2 < fuel) →
      (r ≠ 0 → ∀ i, i + d.log2 ≤ r.log2 → q.testBit i = false) →
      toPoly (pmodLoop d fuel r q).1 + toPoly (pmodLoop d fuel r q).2 * toPoly d =
        toPoly r + toPoly q * toPoly d ∧
      ((pmodLoop d fuel r q).1 = 0 ∨ (pmodLoop d fuel r q).1.log2 < d.log2) := by
  intro fuel
  induction fuel with
  | zero =>
    intro r q hf _
    have : r = 0 := by omega
    simp [pmodLoop, this]
  | succ fuel ih =>
    intro r q hf hq
    rw [pmodLoop]
    by_cases hr : r = 0
    · rw [if_pos hr]; exact ⟨rfl, .inl hr⟩
    rw [if_neg hr]
    by_cases hlt : r.log2 < d.log2
    · rw [if_pos hlt]; exact ⟨rfl, .inr hlt⟩
    rw [if_neg hlt]
    have hle : d.log2 ≤ r.log2 := by omega
    have hbit : q.testBit (r.log2 - d.log2) = false := hq hr _ (by omega)
    have hfuel : r ^^^ (d <<< (r.log2 - d.log2)) = 0 ∨
        (r ^^^ (d <<< (r.log2 - d.log2))).log2 < fuel := by
      by_cases h0 : r ^^^ (d <<< (r.log2 - d.log2)) = 0
      · exact .inl h0
      · have := log2_pass_lt hr hd hle h0
        exact .inr (by omega)
    have hfresh : r ^^^ (d <<< (r.log2 - d.log2)) ≠ 0 →
        ∀ i, i + d.log2 ≤ (r ^^^ (d <<< (r.log2 - d.log2))).log2 →
          (q ||| (1 <<< (r.log2 - d.log2))).testBit i = false := by
      intro h0 i hi
      have hlow := log2_pass_lt hr hd hle h0
      have hns : ¬ r.log2 - d.log2 ≤ i := by omega
      rw [or_two_pow_eq_xor hbit, Nat.testBit_xor, hq hr i (by omega), Nat.testBit_shiftLeft]
      simp [hns]
    obtain ⟨hsum, hlow⟩ := ih _ _ hfuel hfresh
    refine ⟨hsum.trans ?_, hlow⟩
    rw [or_two_pow_eq_xor hbit]
    simp only [toPoly_xor, toPoly_shiftLeft, toPoly_one]
    have h2 : toPoly d * X ^ (r.log2 - d.log2) + toPoly d * X ^ (r.log2 - d.log2) = 0 :=
      CharTwo.add_self_eq_zero _
    linear_combination h2

/-- `pmod` divides with remainder (R103): the remainder lies below the divisor's degree. -/
theorem pmod_spec (a : Nat) {d : Nat} (hd : d ≠ 0) :
    toPoly a = toPoly (pmod a d).2 * toPoly d + toPoly (pmod a d).1 ∧
    ((pmod a d).1 = 0 ∨ (pmod a d).1.log2 < d.log2) := by
  have h := pmodLoop_spec hd (a.log2 + 1) a 0 (.inr (by omega)) (by simp)
  simp only [toPoly_zero, zero_mul, add_zero] at h
  exact ⟨by rw [pmod, ← h.1, add_comm], h.2⟩

/-- The remainder has no bit at or above the divisor's degree. -/
theorem pmod_lt (a : Nat) {d : Nat} (hd : d ≠ 0) : (pmod a d).1 < 2 ^ d.log2 := by
  rcases (pmod_spec a hd).2 with h | h
  · rw [h]; exact Nat.two_pow_pos _
  · exact lt_of_lt_of_le Nat.lt_log2_self (Nat.pow_le_pow_right (by decide) h)

/-- A remainder that is zero or of smaller `log2` has smaller degree. -/
theorem degree_lt_of_log2_lt {r d : Nat} (hd : d ≠ 0) (h : r = 0 ∨ r.log2 < d.log2) :
    (toPoly r).degree < (toPoly d).degree := by
  rcases h with rfl | h
  · rw [toPoly_zero, degree_zero]
    exact bot_lt_iff_ne_bot.2 (by rw [Ne, degree_eq_bot, toPoly_eq_zero_iff]; exact hd)
  · exact degree_lt_degree (by rwa [natDegree_toPoly, natDegree_toPoly])

/-- Division with remainder is unique, so a division found by other means is what `pmod` gives. -/
theorem pmod_unique {a d q r : Nat} (hd : d ≠ 0) (h : toPoly a = toPoly q * toPoly d + toPoly r)
    (hr : r = 0 ∨ r.log2 < d.log2) : pmod a d = (r, q) := by
  have hs := pmod_spec a hd
  have hdiff : (toPoly (pmod a d).2 - toPoly q) * toPoly d = toPoly r - toPoly (pmod a d).1 := by
    have hboth := hs.1.symm.trans h
    linear_combination hboth
  have hq : toPoly (pmod a d).2 - toPoly q = 0 := by
    by_contra hne
    have hge : (toPoly d).degree ≤ (toPoly r - toPoly (pmod a d).1).degree := by
      rw [← hdiff, mul_comm]
      exact degree_le_mul_left _ hne
    have hlt := (degree_sub_le (toPoly r) (toPoly (pmod a d).1)).trans_lt
      (max_lt (degree_lt_of_log2_lt hd hr) (degree_lt_of_log2_lt hd hs.2))
    exact absurd hge (not_le.2 hlt)
  rw [hq, zero_mul] at hdiff
  exact Prod.ext (toPoly_injective (sub_eq_zero.1 hdiff.symm).symm) (toPoly_injective (sub_eq_zero.1 hq))

end Sys2Proof.Machine
end

