-- ==== Sys2Proof/Laws/Field.lean ====
section
/-! SUPPORT. The field helpers: `gmul` is the product in (ZMod 2)[X] modulo the field polynomial, and
`ginv` is the inverse, by the table of R156. -/

namespace Sys2Proof.Machine

-- The kernel evaluations below run one after the other, so that their memory is not needed at once.
set_option Elab.async false

open Polynomial

/-- The field polynomial x^8 + x^4 + x^3 + x + 1 (R130). -/
noncomputable def modulusPoly : (ZMod 2)[X] := toPoly fieldModulus

theorem log2_fieldModulus : fieldModulus.log2 = 8 := by decide

theorem modulusPoly_monic : modulusPoly.Monic := by
  rw [Monic, leadingCoeff, modulusPoly, natDegree_toPoly, coeff_toPoly, Nat.testBit_log2 (by decide)]
  rfl

/-- Cutting a reduced product to 8 bits drops only zero bits (R131). -/
theorem toNat_gmul (a b : Byte) :
    (gmul a b).toNat = (pmod (clmul a.toNat b.toNat) fieldModulus).1 := by
  have h := pmod_lt (clmul a.toNat b.toNat) (d := fieldModulus) (by decide)
  rw [log2_fieldModulus] at h
  rw [gmul, BitVec.toNat_ofNat, Nat.mod_eq_of_lt h]

/-- `gmul` is multiplication modulo the field polynomial (R131). -/
theorem toPoly_gmul (a b : Byte) :
    toPoly (gmul a b).toNat = (toPoly a.toNat * toPoly b.toNat) %ₘ modulusPoly := by
  have h := pmod_spec (clmul a.toNat b.toNat) (d := fieldModulus) (by decide)
  rw [toPoly_clmul] at h
  rw [toNat_gmul]
  refine ((div_modByMonic_unique (toPoly (pmod (clmul a.toNat b.toNat) fieldModulus).2) _
    modulusPoly_monic ⟨?_, ?_⟩).2).symm
  · rw [h.1, modulusPoly, mul_comm (toPoly fieldModulus), add_comm]
  · rcases h.2 with h0 | hlt
    · rw [h0, toPoly_zero, degree_zero]
      exact bot_lt_iff_ne_bot.2 (by rw [Ne, degree_eq_bot]; exact modulusPoly_monic.ne_zero)
    · exact degree_lt_degree (by rw [modulusPoly, natDegree_toPoly, natDegree_toPoly]; exact hlt)

/-- Two bytes with the same polynomial are equal. -/
theorem byte_ext_toPoly {a b : Byte} (h : toPoly a.toNat = toPoly b.toNat) : a = b :=
  BitVec.eq_of_toNat_eq (toPoly_injective h)

@[simp] theorem toPoly_byte_xor (a b : Byte) :
    toPoly (a ^^^ b).toNat = toPoly a.toNat + toPoly b.toNat := by
  rw [BitVec.toNat_xor, toPoly_xor]

/-- A byte's polynomial is already reduced. -/
theorem toPoly_byte_mod (a : Byte) : toPoly a.toNat %ₘ modulusPoly = toPoly a.toNat := by
  rw [modByMonic_eq_self_iff modulusPoly_monic]
  by_cases h : a.toNat = 0
  · rw [h, toPoly_zero, degree_zero]
    exact bot_lt_iff_ne_bot.2 (by rw [Ne, degree_eq_bot]; exact modulusPoly_monic.ne_zero)
  · apply degree_lt_degree
    rw [modulusPoly, natDegree_toPoly, natDegree_toPoly, log2_fieldModulus]
    exact (Nat.log2_lt h).2 a.isLt

/-- The inverse of a non-zero byte is its inverse, and the values are those of R156. -/
theorem ginv_table : ∀ a : Byte, ginv a = Tables.ginvTable.getD a.toNat 0 ∧
    (a = 0 ∨ gmul a (Tables.ginvTable.getD a.toNat 0) = 1) := by decide +kernel

theorem ginv_eq_table (a : Byte) : ginv a = Tables.ginvTable.getD a.toNat 0 := (ginv_table a).1

/-- The power `a^254` is the inverse of R132. -/
theorem gmul_ginv {a : Byte} (h : a ≠ 0) : gmul a (ginv a) = 1 := by
  rw [ginv_eq_table]; exact ((ginv_table a).2).resolve_left h

/-- The zero convention (R132). -/
@[simp] theorem ginv_zero : ginv 0 = 0 := by rw [ginv_eq_table]; decide

end Sys2Proof.Machine
end

