-- ==== Sys2Proof/Laws/Operands.lean ====
section
/-! SUPPORT. Bytes of a word and bytes of STATE: reading one after writing all. -/

namespace Sys2Proof.Machine

theorem fin4_cases (k : Fin 4) : k = 0 ∨ k = 1 ∨ k = 2 ∨ k = 3 := by omega

/-- Bit `i` of a word made of four bytes: byte 3 lies lowest (R15). -/
theorem getLsbD_wordOf (b0 b1 b2 b3 : Byte) (i : Nat) :
    (wordOf b0 b1 b2 b3).getLsbD i =
      if i < 8 then b3.getLsbD i
      else if i < 16 then b2.getLsbD (i - 8)
      else if i < 24 then b1.getLsbD (i - 16)
      else b0.getLsbD (i - 24) := by
  have h : (wordOf b0 b1 b2 b3).getLsbD i = (b0 ++ b1 ++ b2 ++ b3).getLsbD i := rfl
  rw [h, BitVec.getLsbD_append, BitVec.getLsbD_append, BitVec.getLsbD_append]
  split
  · rfl
  · split
    · rw [if_pos (by omega)]
    · split
      · rw [if_neg (by omega), if_pos (by omega)]; congr 1
      · rw [if_neg (by omega), if_neg (by omega)]; congr 1

theorem getLsbD_byteOf (w : Word) (k : Fin 4) (i : Nat) :
    (byteOf w k).getLsbD i = (decide (i < 8) && w.getLsbD (24 - 8 * k.val + i)) := by
  rw [byteOf, BitVec.getLsbD_extractLsb']

/-- Each byte of a word made of four bytes (R15). -/
theorem byteOf_wordOf (b0 b1 b2 b3 : Byte) :
    byteOf (wordOf b0 b1 b2 b3) 0 = b0 ∧ byteOf (wordOf b0 b1 b2 b3) 1 = b1 ∧
    byteOf (wordOf b0 b1 b2 b3) 2 = b2 ∧ byteOf (wordOf b0 b1 b2 b3) 3 = b3 := by
  refine ⟨?_, ?_, ?_, ?_⟩ <;> apply BitVec.eq_of_getLsbD_eq <;> intro i hi <;>
    rw [getLsbD_byteOf, getLsbD_wordOf]
  · rw [if_neg (by simp; omega), if_neg (by simp; omega), if_neg (by simp)]; simp [hi]
  · rw [if_neg (by simp; omega), if_neg (by simp), if_pos (by simp; omega)]; simp [hi]
  · rw [if_neg (by simp), if_pos (by simp; omega)]; simp [hi]
  · rw [if_pos (by simp; omega)]; simp [hi]

/-- Byte `k` of the word made of the bytes `f` is `f k` (R15). -/
@[simp] theorem byteOf_wordOfBytes (f : Fin 4 → Byte) (k : Fin 4) : byteOf (wordOfBytes f) k = f k := by
  obtain ⟨h0, h1, h2, h3⟩ := byteOf_wordOf (f 0) (f 1) (f 2) (f 3)
  rcases fin4_cases k with rfl | rfl | rfl | rfl <;> assumption

/-- The word of a word's bytes is that word (R15). -/
theorem wordOf_byteOf (w : Word) : wordOf (byteOf w 0) (byteOf w 1) (byteOf w 2) (byteOf w 3) = w := by
  apply BitVec.eq_of_getLsbD_eq
  intro i hi
  rw [getLsbD_wordOf]
  simp only [getLsbD_byteOf]
  repeat' split
  all_goals
    rw [decide_eq_true (by omega), Bool.true_and]
    congr 1
    simp
    try omega

/-- A word is made of its bytes (R15). -/
@[simp] theorem wordOfBytes_byteOf (w : Word) : (wordOfBytes fun k => byteOf w k) = w := wordOf_byteOf w

/-- Two words with equal bytes are equal. -/
theorem word_ext {w w' : Word} (h : ∀ k, byteOf w k = byteOf w' k) : w = w' := by
  rw [← wordOfBytes_byteOf w, ← wordOfBytes_byteOf w']
  simp [wordOfBytes, h]

/-- `s(r, c)` of the STATE made of `f` is `f r c` (R16). -/
@[simp] theorem grid_ofGrid (f : Fin 4 → Fin 4 → Byte) (r c : Fin 4) : grid (ofGrid f) r c = f r c := by
  simp [grid, ofGrid]

/-- STATE is made of its bytes (R16). -/
@[simp] theorem ofGrid_grid (st : Vector Word 4) : (ofGrid fun r c => grid st r c) = st := by
  ext i hi : 1
  simp only [ofGrid, Vector.getElem_ofFn, grid]
  exact wordOfBytes_byteOf _

/-- Two STATEs with equal bytes are equal. -/
theorem state_ext {st st' : Vector Word 4} (h : ∀ r c, grid st r c = grid st' r c) : st = st' := by
  rw [← ofGrid_grid st, ← ofGrid_grid st']
  simp [ofGrid, h]

end Sys2Proof.Machine
end

