-- ==== Sys2Proof/Laws/KeySchedule.lean ====
section
/-! SUPPORT. The key expansion: its length, that it only ever appends, and each word by the recurrence
(R174). -/

namespace Sys2Proof.Machine

@[simp] theorem length_extendKey (nk n : Nat) (w : List Word) :
    (extendKey nk n w).length = w.length + n := by
  induction n generalizing w with
  | zero => rfl
  | succ n ih => rw [extendKey, ih]; simp; omega

/-- The expansion appends: the words there are stay. -/
theorem extendKey_getElem? (nk n : Nat) (w : List Word) {i : Nat} (hi : i < w.length) :
    (extendKey nk n w)[i]? = w[i]? := by
  induction n generalizing w with
  | zero => rfl
  | succ n ih =>
    rw [extendKey, ih _ (by simp; omega), List.getElem?_append_left hi]

/-- The expansion in two parts. -/
theorem extendKey_add (nk m n : Nat) (w : List Word) :
    extendKey nk (m + n) w = extendKey nk n (extendKey nk m w) := by
  induction m generalizing w with
  | zero => simp [extendKey]
  | succ m ih => rw [show m + 1 + n = (m + n) + 1 by omega, extendKey, extendKey, ih]

/-- Each word after the key is the next word of those before it (R174). -/
theorem extendKey_next (nk n : Nat) (w : List Word) {m : Nat} (hm : m < n) :
    (extendKey nk n w)[w.length + m]? = some (nextKeyWord nk (extendKey nk m w)) := by
  rw [show n = m + ((n - m - 1) + 1) by omega, extendKey_add, extendKey,
    extendKey_getElem? _ _ _ (by simp), List.getElem?_append_right (by simp)]
  simp

/-- An earlier part of the expansion has the same words as the whole. -/
theorem extendKey_prefix (nk : Nat) {m n : Nat} (hmn : m ≤ n) (w : List Word) {i : Nat}
    (hi : i < w.length + m) : (extendKey nk m w)[i]? = (extendKey nk n w)[i]? := by
  rw [show n = m + (n - m) by omega, extendKey_add]
  exact (extendKey_getElem? nk (n - m) (extendKey nk m w) (by simpa using hi)).symm

theorem length_keyWords (s : State) (k : KeySize) : (keyWords s k).length = k.nk := by
  cases k <;> simp [keyWords, KeySize.nk]

/-- The schedule has `4 (Nr + 1)` words (R174). -/
theorem length_keyexp {key : List Word} {k : KeySize} (h : key.length = k.nk) :
    (keyexp key k.nk k.nr).length = 4 * (k.nr + 1) := by
  have := k.nk_le
  rw [keyexp, length_extendKey, h]; omega

/-- The first words of the schedule are the key (R174). -/
theorem keyexp_key {key : List Word} (nk nr : Nat) {i : Nat} (hi : i < key.length) :
    (keyexp key nk nr)[i]? = key[i]? := extendKey_getElem? _ _ _ hi

/-- A word of the RAM after KEXP (R183). -/
theorem rkWord_scheduleRam (w : List Word) (nr : Nat) {i : Nat} (hi : i < 60) :
    rkWord (scheduleRam w nr) i = if i < 4 * (nr + 1) then w.getD i 0 else 0 := by
  simp [rkWord, scheduleRam, hi]

/-- The RAM read as in R34. -/
theorem rkWord_of_lt (rk : Vector Word 60) {i : Nat} (hi : i < 60) : rkWord rk i = rk[i] := by
  simp [rkWord, hi]

end Sys2Proof.Machine
end

