-- ==== Sys2Proof/Laws/PerInstr.lean ====
section
/-! SUPPORT. One lemma per command: the fields of its command word (R71-R73). -/

namespace Sys2Proof.Laws.CommandFields

/-- The command word of `i` carries the OP of `i`, a zero MID field, and the immediate of `i`. -/
def Statement (i : Instr) : Prop :=
  opField (encode i) = i.opcode ∧ midField (encode i) = 0 ∧ immField (encode i) = i.imm8

/-- A word put together from OP, sixteen zero bits and IMM8 has these fields (R71). -/
theorem fields_of_append (op imm : Byte) :
    opField (op ++ 0#16 ++ imm) = op ∧ midField (op ++ 0#16 ++ imm) = 0 ∧
      immField (op ++ 0#16 ++ imm) = imm := by
  refine ⟨?_, ?_, ?_⟩ <;> apply BitVec.eq_of_getLsbD_eq <;> intro i hi
  · have h : (opField (op ++ 0#16 ++ imm)).getLsbD i = (op ++ 0#16 ++ imm).getLsbD (24 + i) := by
      rw [opField, BitVec.getLsbD_extractLsb', decide_eq_true hi, Bool.true_and]
    rw [h, BitVec.getLsbD_append, if_neg (by omega), BitVec.getLsbD_append, if_neg (by omega)]
    congr 1; omega
  · have h : (midField (op ++ 0#16 ++ imm)).getLsbD i = (op ++ 0#16 ++ imm).getLsbD (8 + i) := by
      rw [midField, BitVec.getLsbD_extractLsb', decide_eq_true hi, Bool.true_and]
    rw [h, BitVec.getLsbD_append, if_neg (by omega), BitVec.getLsbD_append, if_pos (by omega)]
    simp
  · have h : (immField (op ++ 0#16 ++ imm)).getLsbD i = (op ++ 0#16 ++ imm).getLsbD i := by
      rw [immField, BitVec.getLsbD_extractLsb', decide_eq_true hi, Bool.true_and, Nat.zero_add]
    rw [h, BitVec.getLsbD_append, if_pos hi]

theorem nop : Statement .nop := fields_of_append _ _
theorem padd : Statement .padd := fields_of_append _ _
theorem pmul : Statement .pmul := fields_of_append _ _
theorem pmod : Statement .pmod := fields_of_append _ _
theorem pdeg : Statement .pdeg := fields_of_append _ _
theorem pcoef (idx : Int) : Statement (.pcoef idx) := fields_of_append _ _
theorem gadd : Statement .gadd := fields_of_append _ _
theorem gmul : Statement .gmul := fields_of_append _ _
theorem ginv : Statement .ginv := fields_of_append _ _
theorem sbox : Statement .sbox := fields_of_append _ _
theorem isbox : Statement .isbox := fields_of_append _ _
theorem aff : Statement .aff := fields_of_append _ _
theorem iaff : Statement .iaff := fields_of_append _ _
theorem rotw : Statement .rotw := fields_of_append _ _
theorem subw : Statement .subw := fields_of_append _ _
theorem rcon (j : Nat) : Statement (.rcon j) := fields_of_append _ _
theorem kexp : Statement .kexp := fields_of_append _ _
theorem subb : Statement .subb := fields_of_append _ _
theorem shr : Statement .shr := fields_of_append _ _
theorem mixc : Statement .mixc := fields_of_append _ _
theorem ark (r : Nat) : Statement (.ark r) := fields_of_append _ _
theorem isubb : Statement .isubb := fields_of_append _ _
theorem ishr : Statement .ishr := fields_of_append _ _
theorem imixc : Statement .imixc := fields_of_append _ _
theorem enc : Statement .enc := fields_of_append _ _
theorem dec : Statement .dec := fields_of_append _ _

end Sys2Proof.Laws.CommandFields
end

