-- ==== Sys2Proof/Laws/Sbox.lean ====
section
/-! SUPPORT. The S-box helpers by their tables (R154, R155). -/

namespace Sys2Proof.Machine

-- The kernel evaluations below run one after the other, so that their memory is not needed at once.
set_option Elab.async false

/-- The forward S-box over the inverse table, a finite question that needs no field arithmetic. -/
theorem aff_ginvTable : ∀ b : Byte,
    aff (Tables.ginvTable.getD b.toNat 0) = Tables.sboxTable.getD b.toNat 0 := by decide +kernel

theorem ginvTable_iaff : ∀ b : Byte,
    Tables.ginvTable.getD (iaff b).toNat 0 = Tables.isboxTable.getD b.toNat 0 := by decide +kernel

/-- The forward S-box is the table of R154. -/
theorem sbox_eq_table (b : Byte) : sbox b = Tables.sboxTable.getD b.toNat 0 := by
  rw [sbox, ginv_eq_table]; exact aff_ginvTable b

/-- The inverse S-box is the table of R155. -/
theorem isbox_eq_table (b : Byte) : isbox b = Tables.isboxTable.getD b.toNat 0 := by
  rw [isbox, ginv_eq_table]; exact ginvTable_iaff b

/-- Bit `i` of a rotated byte is bit `(i + n) mod 8` (R150, R151). -/
theorem getLsbD_rotrByte (b : Byte) {n i : Nat} (hn : n < 8) (hi : i < 8) :
    (rotrByte b n).getLsbD i = b.getLsbD ((i + n) % 8) := by
  rw [rotrByte, BitVec.getLsbD_rotateRight, Nat.mod_eq_of_lt hn]
  by_cases h : i < 8 - n
  · rw [decide_eq_true h, cond_true]; congr 1; omega
  · rw [decide_eq_false h, cond_false, decide_eq_true hi, Bool.true_and]; congr 1; omega

end Sys2Proof.Machine
end

