-- ==== Sys2Proof/Tests/Slice0.lean ====
section
/-! SUPPORT. The model's own tests. Expected values come from the spec: the encodings of R71-R78, the
vectors of 95_test_vectors.md, and the examples in the commands' rules. -/

namespace Sys2Proof.Tests

-- The kernel evaluations below run one after the other, so that their memory is not needed at once.
set_option Elab.async false

open Sys2Proof.Machine Sys2Proof.Safety Sys2Proof.Tables

/-! ### Helpers -/

/-- The state one step after the command word `w` is accepted in `s` and nothing else happens. -/
def after (w : Nat) (s : State) : Option State :=
  match step (s.withFetchWord 32 w) with
  | .next t => some t
  | .fault _ => none
  | .refused _ => none

/-- RESL, RESH and STATUS after the command word `w` with OPA = `a` and OPB = `b` from reset. -/
def results (w : Nat) (a b : Word) : Option (Word × Word × Word) :=
  (after w { State.reset with opa := a, opb := b }).map fun t => (t.resl, t.resh, statusWord t)

/-- A schedule of AES-128 for the K1 key, written out from 95_test_vectors.md section 2.4. -/
def k1Words : List Word :=
  [0x2b7e1516, 0x28aed2a6, 0xabf71588, 0x09cf4f3c] ++
  [0xa0fafe17, 0x88542cb1, 0x23a33939, 0x2a6c7605] ++
  [0xf2c295f2, 0x7a96b943, 0x5935807a, 0x7359f67f] ++
  [0x3d80477d, 0x4716fe3e, 0x1e237e44, 0x6d7a883b] ++
  [0xef44a541, 0xa8525b7f, 0xb671253b, 0xdb0bad00] ++
  [0xd4d1c6f8, 0x7c839d87, 0xcaf2b8bc, 0x11f915bc] ++
  [0x6d88a37a, 0x110b3efd, 0xdbf98641, 0xca0093fd] ++
  [0x4e54f70e, 0x5f5fc9f3, 0x84a64fb2, 0x4ea6dc4f] ++
  [0xead27321, 0xb58dbad2, 0x312bf560, 0x7f8d292f] ++
  [0xac7766f3, 0x19fadc21, 0x28d12941, 0x575c006e] ++
  [0xd014f9a8, 0xc9ee2589, 0xe13f0cc8, 0xb6630ca6]

/-- The state after K1's KEXP, as far as the round commands read it. -/
def k1State (st : Vector Word 4) : State :=
  { State.reset with
    ksched := some .aes128, blklen := 16, state := st,
    rk := Vector.ofFn fun i => k1Words.getD i.val 0 }

/-- STATE and STATUS after the command word `w` in `s`. -/
def stateAfter (w : Nat) (s : State) : Option (Vector Word 4 × Word) :=
  (after w s).map fun t => (t.state, statusWord t)

/-- KEYLEN and the first words of KEY loaded. -/
def keyed (kl : Byte) (ws : List Word) : State :=
  { State.reset with keylen := kl, key := Vector.ofFn fun i => ws.getD i.val 0 }

/-! ### Decoding: each command's word written out from its fields (R71, R75) -/

theorem test_decode_nop : decode 0b00000000_0000000000000000_00000000#32 = .ok .nop := by decide
theorem test_decode_padd : decode 0b00010000_0000000000000000_00000000#32 = .ok .padd := by decide
theorem test_decode_pmul : decode 0b00010001_0000000000000000_00000000#32 = .ok .pmul := by decide
theorem test_decode_pmod : decode 0b00010010_0000000000000000_00000000#32 = .ok .pmod := by decide
theorem test_decode_pdeg : decode 0b00010011_0000000000000000_00000000#32 = .ok .pdeg := by decide
theorem test_decode_pcoef : decode 0b00010100_0000000000000000_11111111#32 = .ok (.pcoef (-1)) := by decide
theorem test_decode_gadd : decode 0b00100000_0000000000000000_00000000#32 = .ok .gadd := by decide
theorem test_decode_gmul : decode 0b00100001_0000000000000000_00000000#32 = .ok .gmul := by decide
theorem test_decode_ginv : decode 0b00100010_0000000000000000_00000000#32 = .ok .ginv := by decide
theorem test_decode_sbox : decode 0b00110000_0000000000000000_00000000#32 = .ok .sbox := by decide
theorem test_decode_isbox : decode 0b00110001_0000000000000000_00000000#32 = .ok .isbox := by decide
theorem test_decode_aff : decode 0b00110010_0000000000000000_00000000#32 = .ok .aff := by decide
theorem test_decode_iaff : decode 0b00110011_0000000000000000_00000000#32 = .ok .iaff := by decide
theorem test_decode_rotw : decode 0b01000000_0000000000000000_00000000#32 = .ok .rotw := by decide
theorem test_decode_subw : decode 0b01000001_0000000000000000_00000000#32 = .ok .subw := by decide
theorem test_decode_rcon : decode 0b01000010_0000000000000000_00001010#32 = .ok (.rcon 10) := by decide
theorem test_decode_kexp : decode 0b01000011_0000000000000000_00000000#32 = .ok .kexp := by decide
theorem test_decode_subb : decode 0b01010000_0000000000000000_00000000#32 = .ok .subb := by decide
theorem test_decode_shr : decode 0b01010001_0000000000000000_00000000#32 = .ok .shr := by decide
theorem test_decode_mixc : decode 0b01010010_0000000000000000_00000000#32 = .ok .mixc := by decide
theorem test_decode_ark : decode 0b01010011_0000000000000000_00001110#32 = .ok (.ark 14) := by decide
theorem test_decode_isubb : decode 0b01010100_0000000000000000_00000000#32 = .ok .isubb := by decide
theorem test_decode_ishr : decode 0b01010101_0000000000000000_00000000#32 = .ok .ishr := by decide
theorem test_decode_imixc : decode 0b01010110_0000000000000000_00000000#32 = .ok .imixc := by decide
theorem test_decode_enc : decode 0b01011000_0000000000000000_00000000#32 = .ok .enc := by decide
theorem test_decode_dec : decode 0b01011001_0000000000000000_00000000#32 = .ok .dec := by decide

theorem test_decode_mid_rejected : decode 0x10000100 = .error .nonzeroMid := by decide
theorem test_decode_imm_rejected : decode 0x00000001 = .error .nonzeroImm := by decide
theorem test_decode_gap_rejected : decode 0x57000000 = .error .unknownOpcode := by decide
theorem test_decode_top_rejected : decode 0xFF000000 = .error .unknownOpcode := by decide
theorem test_encode_pcoef_min : encode (.pcoef (-128)) = 0x14000080 := by decide
theorem test_encode_ark : encode (.ark 11) = 0x5300000B := by decide
theorem test_decodeTableWord_kexp : decodeTableWord 32 0x43000000 = some .kexp := by decide
theorem test_decodeTableWord_wide : decodeTableWord 40 0x43000000 = none := by decide

/-! ### WellFormed refuses what cannot be assembled (R78) -/

theorem test_wellFormed_pcoef_low : (Instr.pcoef (-129)).wellFormed = false := by decide
theorem test_wellFormed_pcoef_high : (Instr.pcoef 128).wellFormed = false := by decide
theorem test_wellFormed_rcon_high : (Instr.rcon 256).wellFormed = false := by decide
theorem test_wellFormed_ark_high : (Instr.ark 256).wellFormed = false := by decide
theorem test_wellFormed_pcoef_ends :
    (Instr.pcoef (-128)).wellFormed = true ∧ (Instr.pcoef 127).wellFormed = true := by decide

/-! ### Commands: vectors of 95_test_vectors.md, one step each -/

theorem test_padd : results 0x10000000 0x57 0x83 = some (0xd4, 0x0, 0x0) := by decide +kernel
theorem test_pmul_full : results 0x11000000 0xffffffff 0xffffffff = some (0x55555555, 0x55555555, 0x0) := by decide +kernel
theorem test_pmul_top : results 0x11000000 0x80000000 0x80000000 = some (0x0, 0x40000000, 0x0) := by decide +kernel
theorem test_pmod : results 0x12000000 0xffffffff 0x11b = some (0xaa, 0xf6376b, 0x0) := by decide +kernel
theorem test_pmod_zero : results 0x12000000 0x2b79 0x0 = some (0x0, 0x0, 0x32) := by decide +kernel
theorem test_pdeg_zero : results 0x13000000 0x0 0x0 = some (0xffffffff, 0x0, 0x0) := by decide +kernel
theorem test_pdeg_top : results 0x13000000 0xffffffff 0x0 = some (0x1f, 0x0, 0x0) := by decide +kernel
theorem test_pcoef_top : results 0x1400001f 0x80000000 0x0 = some (0x1, 0x0, 0x0) := by decide +kernel
theorem test_pcoef_negative : results 0x14000080 0x11b 0x0 = some (0x0, 0x0, 0x22) := by decide +kernel
theorem test_gadd_low_bytes : results 0x20000000 0x12345657 0xabcdef83 = some (0xd4, 0x0, 0x0) := by decide +kernel
theorem test_gmul : results 0x21000000 0x1257 0xff83 = some (0xc1, 0x0, 0x0) := by decide +kernel
theorem test_gmul_reduced : results 0x21000000 0xff 0xff = some (0x13, 0x0, 0x0) := by decide +kernel
theorem test_ginv : results 0x22000000 0x53 0x0 = some (0xca, 0x0, 0x0) := by decide +kernel
theorem test_ginv_zero_byte : results 0x22000000 0x100 0x0 = some (0x0, 0x0, 0x0) := by decide +kernel
theorem test_sbox : results 0x30000000 0x1ff 0x0 = some (0x16, 0x0, 0x0) := by decide +kernel
theorem test_sbox_zero : results 0x30000000 0x0 0x0 = some (0x63, 0x0, 0x0) := by decide +kernel
theorem test_isbox : results 0x31000000 0x52 0x0 = some (0x48, 0x0, 0x0) := by decide +kernel
theorem test_isbox_zero_value : results 0x31000000 0x63 0x0 = some (0x0, 0x0, 0x0) := by decide +kernel
theorem test_aff : results 0x32000000 0xff 0x0 = some (0x9c, 0x0, 0x0) := by decide +kernel
theorem test_iaff : results 0x33000000 0xff 0x0 = some (0xfa, 0x0, 0x0) := by decide +kernel
theorem test_rotw : results 0x40000000 0x01020304 0x0 = some (0x02030401, 0x0, 0x0) := by decide +kernel
theorem test_subw : results 0x41000000 0x01020304 0x0 = some (0x7c777bf2, 0x0, 0x0) := by decide +kernel
theorem test_rcon_last : results 0x420000ff 0x0 0x0 = some (0x8d000000, 0x0, 0x0) := by decide +kernel
theorem test_rcon_zero : results 0x42000000 0x0 0x0 = some (0x0, 0x0, 0x22) := by decide +kernel

/-- R240's example: LASTERR = 3 and ERR = 1 from a failed PMOD, then NOP. -/
theorem test_nop_keeps_err :
    (after 0 { State.reset with err := true, lastErr := some .divisionByZero }).map statusWord =
      some 0x00000002 := by decide

/-- R183's example, KSTAT and the last round key of K1. -/
theorem test_kexp_k1 :
    (after 0x43000000 (keyed 16 [0x2b7e1516, 0x28aed2a6, 0xabf71588, 0x09cf4f3c])).map
      (fun t => (kstatWord t, t.rk[4], t.rk[43], t.rk[44], statusWord t)) =
      some (0x000A0401, 0xa0fafe17, 0xb6630ca6, 0, 0) := by decide +kernel

/-- K4: the extra SubWord step shows in RK[12], and RK[59] is the last word. -/
theorem test_kexp_k4 :
    (after 0x43000000 (keyed 32 [0x00010203, 0x04050607, 0x08090a0b, 0x0c0d0e0f, 0x10111213,
      0x14151617, 0x18191a1b, 0x1c1d1e1f])).map (fun t => (kstatWord t, t.rk[12], t.rk[59])) =
      some (0x000E0801, 0x1651a8cd, 0x6d68de36) := by decide +kernel

theorem test_subb : stateAfter 0x50000000 (k1State #v[0x193de3be, 0xa0f4e22b, 0x9ac68d2a, 0xe9f84808]) =
    some (#v[0xd42711ae, 0xe0bf98f1, 0xb8b45de5, 0x1e415230], 0x0) := by decide +kernel

theorem test_shr : stateAfter 0x51000000 (k1State #v[0x00010203, 0x04050607, 0x08090a0b, 0x0c0d0e0f]) =
    some (#v[0x00050a0f, 0x04090e03, 0x080d0207, 0x0c01060b], 0x0) := by decide +kernel

theorem test_mixc : stateAfter 0x52000000 (k1State #v[0xd4bf5d30, 0xe0b452ae, 0xb84111f1, 0x1e2798e5]) =
    some (#v[0x046681e5, 0xe0cb199a, 0x48f8d37a, 0x2806264c], 0x0) := by decide +kernel

theorem test_mixc_column : stateAfter 0x52000000 (k1State #v[0xdb135345, 0xf20a225c, 0x2d26314c, 0xd4d4d4d5]) =
    some (#v[0x8e4da1bc, 0x9fdc589d, 0x4d7ebdf8, 0xd5d5d7d6], 0x0) := by decide +kernel

theorem test_ark : stateAfter 0x53000001 (k1State #v[0x046681e5, 0xe0cb199a, 0x48f8d37a, 0x2806264c]) =
    some (#v[0xa49c7ff2, 0x689f352b, 0x6b5bea43, 0x026a5049], 0x0) := by decide +kernel

theorem test_ark_above_nr : stateAfter 0x5300000b (k1State #v[0x046681e5, 0xe0cb199a, 0x48f8d37a, 0x2806264c]) =
    some (#v[0x046681e5, 0xe0cb199a, 0x48f8d37a, 0x2806264c], 0xa2) := by decide +kernel

theorem test_isubb : stateAfter 0x54000000 (k1State #v[0xd42711ae, 0xe0bf98f1, 0xb8b45de5, 0x1e415230]) =
    some (#v[0x193de3be, 0xa0f4e22b, 0x9ac68d2a, 0xe9f84808], 0x0) := by decide +kernel

theorem test_ishr : stateAfter 0x55000000 (k1State #v[0x00010203, 0x04050607, 0x08090a0b, 0x0c0d0e0f]) =
    some (#v[0x000d0a07, 0x04010e0b, 0x0805020f, 0x0c090603], 0x0) := by decide +kernel

theorem test_imixc : stateAfter 0x56000000 (k1State #v[0x046681e5, 0xe0cb199a, 0x48f8d37a, 0x2806264c]) =
    some (#v[0xd4bf5d30, 0xe0b452ae, 0xb84111f1, 0x1e2798e5], 0x0) := by decide +kernel

/-- K1 of the document's §6, encrypting. -/
theorem test_enc_k1 : stateAfter 0x58000000 (k1State #v[0x3243f6a8, 0x885a308d, 0x313198a2, 0xe0370734]) =
    some (#v[0x3925841d, 0x02dc09fb, 0xdc118597, 0x196a0b32], 0x0) := by decide +kernel

/-- K1 of the document's §6, decrypting. -/
theorem test_dec_k1 : stateAfter 0x59000000 (k1State #v[0x3925841d, 0x02dc09fb, 0xdc118597, 0x196a0b32]) =
    some (#v[0x3243f6a8, 0x885a308d, 0x313198a2, 0xe0370734], 0x0) := by decide +kernel

/-- From reset ENC reports the block length first (R255). -/
theorem test_enc_error_priority : (after 0x58000000 State.reset).map statusWord = some 0x52 := by decide

theorem test_illegal_word : (after 0x57000000 State.reset).map statusWord = some 0x82 := by decide

/-! ### The register window: 95_test_vectors.md section 2.7 -/

/-- The newest response after one host access in `s`. -/
def answer (a : HostAccess) (s : State) : Option BusResponse := (hostAccess a s).responses.head?

theorem test_read_id : answer (.read .w32 0x000) State.reset = some (.read false 0x47463238) := by decide
theorem test_read_reserved : answer (.read .w32 0x028) State.reset = some (.read true 0) := by decide
theorem test_read_misaligned : answer (.read .w32 0x002) State.reset = some (.read true 0) := by decide
theorem test_read_top : answer (.read .w32 0xFFC) State.reset = some (.read true 0) := by decide
theorem test_write_narrow :
    hostAccess (.write .w8 0x010 5) State.reset = respond (.write true) State.reset := by decide
theorem test_read_rkw_without_schedule :
    answer (.read .w32 0x100) (State.resetWith (Vector.replicate 60 7)) = some (.read false 0) := by decide
theorem test_read_rkw40 :
    answer (.read .w32 0x1a0) (k1State #v[0, 0, 0, 0]) = some (.read false 0xd014f9a8) := by decide
theorem test_keylen_keeps_low_byte :
    (hostAccess (.write .w32 0x020 0xFFFFFFFF) State.reset).keylen = 0xFF := by decide

/-- R258: a STATUS write of 2 clears ERR and leaves LASTERR. -/
theorem test_status_clear :
    statusWord (hostAccess (.write .w32 0x004 2)
      { State.reset with err := true, lastErr := some .noKeySchedule }) = 0x90 := by decide

/-- The busy rows of section 2.7: a write to OPA is dropped and sets OVR. -/
theorem test_busy_write :
    (fun t : State => (statusWord t, t.opa)) (hostAccess (.write .w32 0x010 0x1234)
      { State.reset with busy := true, opa := 0x57 }) = (0x5, 0x57) := by decide

/-- A busy read of RESL draws `BUSY_READ`, whatever it is. -/
theorem test_busy_read :
    answer (.read .w32 0x018) { State.reset with busy := true, draws := 3 } =
      some (.read false (Config.busyRead 3)) := rfl

/-- A CMD write is accepted, and with no turn left the next step completes it. -/
theorem test_accept_then_complete :
    (match step (State.reset.submit [.host (.write .w32 0x00C 0)]) with
      | .next t => (t.busy, match step t with | .next u => u.busy | _ => true)
      | _ => (false, true)) = (true, false) := by decide

/-! ### Witnesses: states and operands that meet the hypotheses of each statement -/

/-- A state with the command word `w` in flight. -/
def inFlight (w : Word) : State := { State.reset with busy := true, cmd := w }

theorem witness_StepRunsDecodedCommand :
    (inFlight 0x14000080).busy = true ∧ decode (inFlight 0x14000080).cmd = .ok (.pcoef (-128)) ∧
    (inFlight 0x14000080).schedule = [] ∧
    ((inFlight 0x14000080).submit [.engine]).schedule = .engine :: [] := by decide

theorem witness_StepTakesHostAndIdleTurns :
    (State.reset.submit [.host (.read .w32 0)]).schedule = .host (.read .w32 0) :: [] ∧
    State.reset.busy = false ∧ State.reset.schedule = [] ∧
    (State.reset.submit [.engine]).busy = false ∧
    (State.reset.submit [.engine]).schedule = .engine :: [] := by decide

theorem witness_IllegalWordCompletesWithIllegalCommand :
    ((inFlight 0x14000100).submit [.engine]).busy = true ∧
    ((inFlight 0x14000100).submit [.engine]).schedule = .engine :: [] ∧
    ∀ row ∈ opcodeTable, (inFlight 0x14000100).cmd &&& row.mask ≠ row.matchWord := by decide

/-- One input for each error that has a cause, all with BUSY = 1 and an empty schedule. -/
theorem witness_CompletionReportsTheListedError :
    ((inFlight 0x140000FF).busy = true ∧ (inFlight 0x140000FF).schedule = [] ∧
      decode (inFlight 0x140000FF).cmd = .ok (.pcoef (-1))) ∧
    decode (inFlight 0x42000000).cmd = .ok (.rcon 0) ∧
    (decode (inFlight 0x12000000).cmd = .ok .pmod ∧ (inFlight 0x12000000).opb = 0) ∧
    (decode (inFlight 0x43000000).cmd = .ok .kexp ∧ (inFlight 0x43000000).keylen = 0) ∧
    (decode (inFlight 0x59000000).cmd = .ok .dec ∧ (inFlight 0x59000000).blklen ≠ 16) ∧
    (decode (inFlight 0x53000000).cmd = .ok (.ark 0) ∧ (inFlight 0x53000000).ksv = false) ∧
    (decode 0x5300000B = .ok (.ark 11) ∧ (k1State #v[0, 0, 0, 0]).ksv = true ∧
      (k1State #v[0, 0, 0, 0]).nr < 11) := by decide

theorem witness_CompletionReportsTheListedError_step :
    ∃ t, step (inFlight 0x12000000) = .next t ∧ t.lastErr = some .divisionByZero := ⟨_, rfl, rfl⟩

theorem witness_UnlistedCommandsNeverFail :
    Instr.imixc ∈ ([.nop, .padd, .pmul, .pdeg, .gadd, .gmul, .ginv, .sbox, .isbox, .aff, .iaff, .rotw,
      .subw, .subb, .shr, .mixc, .isubb, .ishr, .imixc] : List Instr) := by decide

theorem witness_ResultRegistersKept :
    (∃ t, exec .nop State.reset = .next t) ∧
    (∃ t, exec (.ark 0) (k1State #v[1, 2, 3, 4]) = .next t) ∧
    (∃ t, exec .pmod State.reset = .next t ∧ t.lastErr ≠ none) :=
  ⟨⟨_, rfl⟩, ⟨_, rfl⟩, ⟨_, rfl, by decide⟩⟩

theorem witness_StateAndScheduleWriters :
    (∃ t, exec .padd State.reset = .next t) ∧
    Instr.padd ∉ ([.subb, .shr, .mixc, .isubb, .ishr, .imixc, .enc, .dec] : List Instr) ∧
    (∀ r, Instr.padd ≠ .ark r) ∧ Instr.padd ≠ .kexp :=
  ⟨⟨_, rfl⟩, by decide, (fun _ h => nomatch h), by decide⟩

/-- Non-zero factors at the top degree. -/
theorem witness_PmulIsCarrylessProduct :
    ({ State.reset with opa := 0x80000000, opb := 0x80000000 } : State).opa ≠ 0 ∧
    ({ State.reset with opa := 0x80000000, opb := 0x80000000 } : State).opb ≠ 0 := by decide

/-- A zero divisor; a divisor of the dividend's own degree; one of higher degree. -/
theorem witness_PmodDivides :
    State.reset.opb = 0 ∧
    (({ State.reset with opa := 0x11B, opb := 0x11B } : State).opb ≠ 0 ∧
      pdeg (0x11B : Word).toNat ≤ pdeg (0x11B : Word).toNat) ∧
    pdeg (0xFF : Word).toNat < pdeg (0x11B : Word).toNat := by decide

theorem witness_PdegIsHighestSetBit :
    State.reset.opa = 0 ∧ ({ State.reset with opa := 1 } : State).opa ≠ 0 := by decide

/-- The ends of the three index ranges: -1, 0 and 31, 32. -/
theorem witness_PcoefReadsTerm : (-1 : Int) < 0 ∧ 0 ≤ 31 ∧ 31 ≤ 31 ∧ 31 < 32 := by decide

theorem witness_PolynomialLaws : (1 : Word) ≠ 0 := by decide

/-- OPA and OPB with bits above the byte set: GADD, GMUL, GINV and the S-box commands. -/
theorem witness_byteOperands :
    ({ State.reset with opa := 0x12345657, opb := 0xABCDEF83 } : State).opa =
      (0x123456#24 ++ (0x57 : Byte) : Word) ∧
    ({ State.reset with opa := 0x12345657, opb := 0xABCDEF83 } : State).opb =
      (0xABCDEF#24 ++ (0x83 : Byte) : Word) := by decide

/-- GINV: the zero byte under non-zero bits, and a non-zero byte. -/
theorem witness_GinvIsTheInverse :
    ({ State.reset with opa := 0x100 } : State).opa = (1#24 ++ (0 : Byte) : Word) ∧
    ({ State.reset with opa := 0xFF } : State).opa = (0#24 ++ (0xFF : Byte) : Word) ∧
    (0xFF : Byte) ≠ 0 ∧ gmul 0xFF 0x1C = 1 := by decide

theorem witness_SboxRoundTrip :
    ({ State.reset with opa := 0x53 } : State).opa = (0x53 : Byte).setWidth 32 := by decide

/-- ROTW and SUBW: any word is made of four bytes. -/
theorem witness_wordOperands :
    ({ State.reset with opa := 0x01020304 } : State).opa = wordOf 1 2 3 4 := by decide

theorem witness_RconIsPowersOfX : (1 : Nat) ≤ 1 ∧ 1 ≤ 255 := by decide

/-- KEXP: a rejected length, the three accepted ones, and the ends of each clause's index range. -/
theorem witness_KexpExpandsTheKey :
    ((keyed 20 []).keylen ≠ 16 ∧ (keyed 20 []).keylen ≠ 24 ∧ (keyed 20 []).keylen ≠ 32) ∧
    (((16 : Byte), KeySize.aes128, 4, 10) ∈ ([(16, .aes128, 4, 10), (24, .aes192, 6, 12),
      (32, .aes256, 8, 14)] : List (Byte × KeySize × Nat × Nat)) ∧ (keyed 16 []).keylen = 16) ∧
    (((32 : Byte), KeySize.aes256, 8, 14) ∈ ([(16, .aes128, 4, 10), (24, .aes192, 6, 12),
      (32, .aes256, 8, 14)] : List (Byte × KeySize × Nat × Nat)) ∧ (keyed 32 []).keylen = 32) ∧
    (3 < 4 ∧ 4 ≤ 4 ∧ 43 < 4 * (10 + 1) ∧ 4 * (10 + 1) ≤ 44 ∧ 59 < 60) := by decide

/-- Two states that agree on KEYLEN and KEY0..KEY3 and differ in KEY4 and in the old RAM. -/
theorem witness_KexpReadsOnlyTheKeyWords :
    keySizeOf (keyed 16 [1, 2, 3, 4, 5]).keylen = some .aes128 ∧
    (keyed 16 [1, 2, 3, 4, 6]).keylen = (keyed 16 [1, 2, 3, 4, 5]).keylen ∧
    (∀ i < KeySize.aes128.nk, (keyed 16 [1, 2, 3, 4, 5]).key[i]? =
      ({ keyed 16 [1, 2, 3, 4, 6] with rk := Vector.replicate 60 9 } : State).key[i]?) := by decide

/-- Column 3 and row 3 wrap in both directions. -/
theorem witness_ShrAndIshrShiftRows :
    (2 : Fin 4).val = ((3 : Fin 4).val + (3 : Fin 4).val) % 4 ∧
    (3 : Fin 4).val = ((0 : Fin 4).val + (3 : Fin 4).val) % 4 := by decide

theorem witness_StateTransformsInvert :
    (Instr.imixc, Instr.mixc) ∈ ([(.subb, .isubb), (.isubb, .subb), (.shr, .ishr), (.ishr, .shr),
      (.mixc, .imixc), (.imixc, .mixc)] : List (Instr × Instr)) := by decide

/-- ARK without a schedule, one round too high, and the last legal round; ARK twice. -/
theorem witness_ArkAddsTheRoundKey :
    State.reset.ksv = false ∧
    ((k1State #v[0, 0, 0, 0]).ksv = true ∧ (k1State #v[0, 0, 0, 0]).nr < 11) ∧
    10 ≤ (k1State #v[0, 0, 0, 0]).nr := by decide

/-- ENC and DEC with a block and a schedule. -/
theorem witness_EncAndDecComplete :
    (k1State #v[1, 2, 3, 4]).blklen = 16 ∧ (k1State #v[1, 2, 3, 4]).ksched = some .aes128 := by decide

theorem witness_EncryptDecryptRoundTrip :
    (24 : Byte) ∈ ([16, 24, 32] : List Byte) ∧
    ({ keyed 24 [1, 2, 3, 4, 5, 6] with blklen := 16 } : State).keylen = 24 ∧
    ({ keyed 24 [1, 2, 3, 4, 5, 6] with blklen := 16 } : State).blklen = 16 := by decide

/-- 15 and 17 bytes, and 16 bytes without a schedule. -/
theorem witness_EncAndDecFail :
    ({ State.reset with blklen := 15 } : State).blklen ≠ 16 ∧
    ({ State.reset with blklen := 17 } : State).blklen ≠ 16 ∧
    ({ State.reset with blklen := 16 } : State).blklen = 16 ∧
    ({ State.reset with blklen := 16 } : State).ksv = false := by decide

/-- Each way an access is illegal, at the ends of the reserved ranges. -/
theorem witness_BusErrorChangesNothing :
    AccessWidth.w64 ≠ .w32 ∧ (0x001 : Offset).toNat % 4 ≠ 0 ∧
    (0x028 ≤ (0x028 : Offset).toNat ∧ (0x02C : Offset).toNat ≤ 0x02F) ∧
    (0x060 ≤ (0x060 : Offset).toNat ∧ (0x0FC : Offset).toNat ≤ 0x0FF) ∧
    0x1F0 ≤ (0x1F0 : Offset).toNat ∧ 0x1F0 ≤ (0xFFC : Offset).toNat := by decide

/-- No legal offset beside the ranges is caught by them. -/
theorem witness_BusErrorChangesNothing_neighbours :
    (regAt 0x024).isSome ∧ (regAt 0x030).isSome ∧ (regAt 0x05C).isSome ∧ (regAt 0x100).isSome ∧
    (regAt 0x1EC).isSome := by decide

theorem witness_KstatAndRkwReads :
    State.reset.ksched = none ∧ (k1State #v[0, 0, 0, 0]).ksched = some .aes128 ∧
    ({ State.reset with ksched := some .aes192 } : State).ksched = some .aes192 ∧
    ({ State.reset with ksched := some .aes256 } : State).ksched = some .aes256 ∧
    (k1State #v[0, 0, 0, 0]).ksv = true := by decide

/-- Idle and busy states for the window statements, and a register of each group. -/
theorem witness_windowAccesses :
    State.reset.busy = false ∧ (inFlight 0).busy = true ∧
    WindowReg.resh ∈ ([.id, .kstat, .resl, .resh] : List WindowReg) ∧
    WindowReg.kstat ∈ ([.resl, .resh, .kstat] : List WindowReg) ∧
    (∃ i, WindowReg.rkw 59 = .rkw i) ∧ (∃ c, WindowReg.state 3 = .state c) ∧
    WindowReg.blklen ∈ ([.id, .status, .cmd, .opa, .opb, .keylen, .blklen] : List WindowReg) ∧
    (∃ k, WindowReg.key 7 = .key k) :=
  ⟨by decide, by decide, by decide, by decide, ⟨_, rfl⟩, ⟨_, rfl⟩, by decide, ⟨_, rfl⟩⟩

theorem witness_ResetRegisters : WindowReg.rkw 59 ≠ .id := by decide

/-- The invariant holds somewhere, with a step to take from there. -/
theorem witness_StepKeepsInv : Inv State.reset ∧ step State.reset = .next State.reset :=
  ⟨⟨(fun _ h => nomatch h), (fun h => nomatch h), (fun _ h => nomatch h)⟩, rfl⟩

theorem witness_AcceptedCommandCompletes :
    ((inFlight 0x58000000).submit [.host (.write .w32 0x010 1), .engine]).busy = true := by decide

/-- A busy state, and two accesses before the completion, one a legal write and one a bus error: the
write is dropped, and the completion of PADD is the one of the operands at acceptance. -/
theorem witness_AccessesWhileBusyDoNotChangeTheResult :
    (inFlight 0x10000000).busy = true ∧
    ∃ t, run 3 ((inFlight 0x10000000).submit
        [.host (.write .w32 0x010 5), .host (.read .w32 0x028), .engine]) = .next t ∧
      (t.busy, t.ovr, t.opa, t.resl) = (false, true, 0, 0) := ⟨rfl, _, rfl, by decide⟩

/-- Two reset states that differ in the RAM alone, one with a schedule held, and a pair that the
relation refuses: a schedule is held and the RAMs differ. -/
theorem witness_StepKeepsSameButHiddenRam :
    SameButHiddenRam (State.resetWith (Vector.replicate 60 7)) (State.resetWith (Vector.replicate 60 9)) ∧
    SameButHiddenRam (k1State #v[1, 2, 3, 4]) (k1State #v[1, 2, 3, 4]) ∧
    ¬ SameButHiddenRam (k1State #v[0, 0, 0, 0])
      { k1State #v[0, 0, 0, 0] with rk := Vector.replicate 60 9 } :=
  ⟨⟨rfl, fun h => absurd rfl h⟩, ⟨rfl, fun _ => rfl⟩,
    fun h => absurd (h.same_rk_once_held (by decide)) (by decide)⟩

/-- The STATUS writes that clear ERR and OVR. -/
theorem witness_StickyFlagsClearedOnlyByStatusWrite :
    (∃ t, step (({ State.reset with err := true } : State).submit [.host (.write .w32 0x004 2)]) =
      .next t ∧ t.err = false) ∧
    (∃ t, step (({ State.reset with ovr := true } : State).submit [.host (.write .w32 0x004 4)]) =
      .next t ∧ t.ovr = false) := ⟨⟨_, rfl, rfl⟩, ⟨_, rfl, rfl⟩⟩

/-- A KEXP step that changes the descriptor. -/
theorem witness_ScheduleChangedOnlyByKexp :
    ∃ t, step { keyed 16 [1, 2, 3, 4] with busy := true, cmd := 0x43000000 } = .next t ∧
      t.ksched ≠ (keyed 16 [1, 2, 3, 4]).ksched := ⟨_, rfl, by decide⟩

end Sys2Proof.Tests
end

/-! ## Rules about one command, one access and one turn

Lemmas about the model's operations that the statements of 10_state.md rest on. -/

namespace Sys2Proof.Machine

open Sys2Proof.Safety

/-! ### The decoder -/

/-- A word is made of its three fields (R71). -/
theorem append_fields (w : Word) : opField w ++ midField w ++ immField w = w := by
  apply BitVec.eq_of_getLsbD_eq
  intro i hi
  have h : (opField w ++ midField w ++ immField w).getLsbD i =
      (w.extractLsb' 24 8 ++ w.extractLsb' 8 16 ++ w.extractLsb' 0 8).getLsbD i := rfl
  rw [h, BitVec.getLsbD_append, BitVec.getLsbD_append]
  simp only [BitVec.getLsbD_extractLsb']
  split
  · simp [*]
  · split
    · rw [decide_eq_true (by omega), Bool.true_and]; congr 1; omega
    · rw [decide_eq_true (by omega), Bool.true_and]; congr 1; omega

/-- A word with the OP and the IMM8 of `i` and a zero MID is the word of `i` (R71). -/
theorem encode_eq_of_fields {i : Instr} {w : Word} (hop : (opField w).toNat = i.opcode.toNat)
    (hmid : midField w = 0) (himm : immField w = i.imm8) : encode i = w := by
  rw [encode, ← BitVec.eq_of_toNat_eq hop, ← himm]
  have h := append_fields w
  rwa [hmid] at h

/-- Format N accepts a word with bits [23:0] zero and no other (R72). -/
theorem decodeN_eq_ok_iff {i j : Instr} {w : Word} :
    decodeN i w = .ok j ↔ midField w = 0 ∧ immField w = 0 ∧ i = j := by
  unfold decodeN
  split
  · next hm => exact ⟨nofun, fun h => absurd h.1 hm⟩
  · next hm =>
    split
    · next hi => exact ⟨nofun, fun h => absurd h.2.1 hi⟩
    · next hi =>
      exact ⟨fun h => ⟨not_not.1 hm, not_not.1 hi, Except.ok.inj h⟩, fun h => congrArg _ h.2.2⟩

/-- Format I accepts a word with bits [23:8] zero and no other (R73). -/
theorem decodeI_eq_ok_iff {f : Byte → Instr} {j : Instr} {w : Word} :
    decodeI f w = .ok j ↔ midField w = 0 ∧ f (immField w) = j := by
  unfold decodeI
  split <;> simp_all

theorem encode_of_decodeN {i j : Instr} {w : Word} (h : decodeN i w = .ok j)
    (hop : (opField w).toNat = i.opcode.toNat) (hi : i.imm8 = 0) : encode j = w := by
  obtain ⟨hmid, himm, rfl⟩ := decodeN_eq_ok_iff.1 h
  exact encode_eq_of_fields hop hmid (himm.trans hi.symm)

theorem encode_of_decodeI {f : Byte → Instr} {j : Instr} {w : Word} (h : decodeI f w = .ok j)
    (hop : ∀ b, (opField w).toNat = (f b).opcode.toNat) (hf : ∀ b, (f b).imm8 = b) :
    encode j = w := by
  obtain ⟨hmid, rfl⟩ := decodeI_eq_ok_iff.1 h
  exact encode_eq_of_fields (hop _) hmid (hf _).symm

/-- The only word that decodes to a command is the command's own word (R75, R76). -/
theorem encode_of_decode {w : Word} {i : Instr} (h : decode w = .ok i) : encode i = w := by
  unfold decode at h
  split at h
  case h_6 hop => exact encode_of_decodeI h (fun _ => hop) fun _ => BitVec.ofInt_toInt
  case h_16 hop => exact encode_of_decodeI h (fun _ => hop) fun _ => by simp [Instr.imm8]
  case h_21 hop => exact encode_of_decodeI h (fun _ => hop) fun _ => by simp [Instr.imm8]
  case h_27 => cases h
  all_goals exact encode_of_decodeN h (by assumption) rfl

/-! ### STATUS and KSTAT -/

/-- Each bit of STATUS: the flags lowest, LASTERR from bit 4, zeros above it (R22). -/
theorem getLsbD_statusWord (s : State) (i : Nat) :
    (statusWord s).getLsbD i =
      if i = 0 then s.busy
      else if i = 1 then s.err
      else if i = 2 then s.ovr
      else if i = 3 then false
      else (lastErrCode s.lastErr).getLsbD (i - 4) := by
  have h : (statusWord s).getLsbD i = (0#24 ++ lastErrCode s.lastErr ++ 0#1 ++
    BitVec.ofBool s.ovr ++ BitVec.ofBool s.err ++ BitVec.ofBool s.busy).getLsbD i := rfl
  rw [h]
  simp only [BitVec.getLsbD_append]
  rcases i with _ | _ | _ | _ | i
  · simp
  · simp
  · simp
  · simp
  · by_cases hi : i < 4
    · simp [hi]
    · simp [hi, BitVec.getLsbD_of_ge _ i (not_lt.1 hi)]

/-- KSTAT is a function of the descriptor alone (R23). -/
theorem kstatWord_of_ksched {s t : State} (h : s.ksched = t.ksched) :
    kstatWord s = kstatWord t := by
  simp only [kstatWord, State.nr, State.nk, State.ksv, h]

/-! ### KEXP -/

/-- What a successful KEXP writes: the schedule of the key in KEY, and its descriptor (R183). -/
def writeSchedule (k : KeySize) (s : State) : State :=
  { s with rk := scheduleRam (keyexp (keyWords s k) k.nk k.nr) k.nr, ksched := some k }

/-- KEXP with a legal key length succeeds (R183). -/
theorem execKexp_of_keySize {s : State} {k : KeySize} (h : keySizeOf s.keylen = some k) :
    execKexp s = .next (complete (writeSchedule k s)) := by
  simp only [execKexp, h]
  rfl

/-- The key lengths KEXP accepts (R173). -/
theorem mem_of_keySizeOf {kl : Byte} {k : KeySize} (h : keySizeOf kl = some k) :
    kl ∈ ([16, 24, 32] : List Byte) := by
  by_contra hmem
  have hnone : keySizeOf kl = none := by
    rw [keySizeOf_eq_none_iff]
    simpa using hmem
  rw [hnone] at h
  cases h

/-- KEXP reads the first `Nk` words of KEY and no other (R32). -/
theorem keyWords_congr {s s' : State} {k : KeySize} (h : ∀ i < k.nk, s.key[i]? = s'.key[i]?) :
    keyWords s k = keyWords s' k := by
  apply List.ext_getElem?
  intro i
  by_cases hi : i < k.nk
  · simpa [keyWords, List.getElem?_take, hi] using h i hi
  · simp [keyWords, hi]

/-- The first words of the RAM after KEXP are the key it expanded (R174, R183). -/
theorem take_scheduleRam_keyexp {key : List Word} {k : KeySize} (hk : key.length = k.nk) :
    (scheduleRam (keyexp key k.nk k.nr) k.nr).toList.take k.nk = key := by
  have hle := k.nk_le
  have hw := k.words_le
  apply List.ext_getElem
  · rw [List.length_take, Vector.length_toList, hk]; omega
  · intro i h₁ h₂
    have hkey : (keyexp key k.nk k.nr)[i]? = some key[i] := by
      rw [keyexp_key _ _ h₂, List.getElem?_eq_getElem h₂]
    have hi : i < 4 * (k.nr + 1) := by omega
    simp [scheduleRam, hkey, hi]

/-! ### Families of commands -/

/-- Which registers a successful completion writes. -/
inductive WriteSet where
  /-- None: NOP (R240). -/
  | none
  /-- RESL and RESH: the commands of 41 to 43, ROTW, SUBW and RCON (R27, R28). -/
  | results
  /-- The round-key RAM and the descriptor: KEXP (R23, R34). -/
  | keySchedule
  /-- STATE: the commands of 45_round_transform.md (R31). -/
  | state

/-- What each command writes when it succeeds (R23, R27, R28, R31, R34). -/
def writeSet : Instr → WriteSet
  | .nop => .none
  | .kexp => .keySchedule
  | .subb | .shr | .mixc | .ark _ | .isubb | .ishr | .imixc | .enc | .dec => .state
  | .padd | .pmul | .pmod | .pdeg | .pcoef _ => .results
  | .gadd | .gmul | .ginv => .results
  | .sbox | .isbox | .aff | .iaff => .results
  | .rotw | .subw | .rcon _ => .results

/-- `t` is `s` but for the registers of the write set. -/
def WriteSet.Frame (s t : State) : WriteSet → Prop
  | .none => t = s
  | .results => ∃ lo hi, t = writeResult lo hi s
  | .keySchedule => ∃ k, keySizeOf s.keylen = some k ∧ t = writeSchedule k s
  | .state => ∃ st, t = writeState st s

/-- ENC and DEC fail, or write STATE alone (R217, R218). -/
theorem withBlock_effect (f : Vector Word 60 → Nat → Vector Word 4 → Vector Word 4) (s : State) :
    (∃ e, e ≠ .invalidCoefficient ∧ withBlock f s = .next (raise e s)) ∨
    ∃ t, WriteSet.state.Frame s t ∧ withBlock f s = .next (complete t) := by
  rcases withBlock_cases f s with ⟨_, h⟩ | ⟨_, _, h⟩ | ⟨k, _, _, h⟩
  · exact .inl ⟨.invalidBlockLength, by decide, h⟩
  · exact .inl ⟨.noKeySchedule, by decide, h⟩
  · exact .inr ⟨_, ⟨_, rfl⟩, h⟩

/-- What `exec_cases` says, with the registers that each command writes (R253, R254): an error
completion, never with the reserved code 1 (R100), or a success completion after it wrote its
registers and no others. -/
theorem exec_effect (i : Instr) (s : State) :
    (∃ e, e ≠ .invalidCoefficient ∧ exec i s = .next (raise e s)) ∨
    ∃ t, (writeSet i).Frame s t ∧ exec i s = .next (complete t) := by
  cases i with
  | nop => exact .inr ⟨s, rfl, rfl⟩
  | pmod =>
    by_cases h : s.opb = 0
    · exact .inl ⟨.divisionByZero, by decide, if_pos h⟩
    · exact .inr ⟨_, ⟨_, _, rfl⟩, if_neg h⟩
  | pcoef idx =>
    by_cases h : idx < 0
    · exact .inl ⟨.invalidIndex, by decide, if_pos h⟩
    · by_cases hc : coeff s.opa.toNat idx.toNat = true
      · exact .inr ⟨_, ⟨_, _, rfl⟩, (if_neg h).trans (if_pos hc)⟩
      · exact .inr ⟨_, ⟨_, _, rfl⟩, (if_neg h).trans (if_neg hc)⟩
  | rcon j =>
    by_cases h : j = 0
    · exact .inl ⟨.invalidIndex, by decide, if_pos h⟩
    · exact .inr ⟨_, ⟨_, _, rfl⟩, if_neg h⟩
  | kexp =>
    rcases h : keySizeOf s.keylen with _ | k
    · exact .inl ⟨.invalidKeyLength, by decide, by rw [exec, execKexp, h, fail_eq]⟩
    · exact .inr ⟨_, ⟨k, h, rfl⟩, execKexp_of_keySize h⟩
  | ark r =>
    rcases h : s.ksched with _ | k
    · exact .inl ⟨.noKeySchedule, by decide, by rw [exec, execArk, h, fail_eq]⟩
    · by_cases hr : k.nr < r
      · exact .inl ⟨.badRound, by decide, by rw [exec, execArk, h]; exact if_pos hr⟩
      · exact .inr ⟨_, ⟨_, rfl⟩, by rw [exec, execArk, h]; exact if_neg hr⟩
  | enc => exact withBlock_effect cipher s
  | dec => exact withBlock_effect invCipher s
  | subb | shr | mixc | isubb | ishr | imixc => exact .inr ⟨_, ⟨_, rfl⟩, rfl⟩
  | _ => exact .inr ⟨_, ⟨_, _, rfl⟩, rfl⟩

section
variable {i : Instr} {w : WriteSet} {s t : State}

theorem writeSet_eq_state_iff :
    writeSet i = .state ↔
      i ∈ ([.subb, .shr, .mixc, .isubb, .ishr, .imixc, .enc, .dec] : List Instr) ∨
        ∃ r, i = .ark r := by
  cases i <;> simp [writeSet]

theorem writeSet_ne_results_iff :
    writeSet i ≠ .results ↔
      i ∈ ([.nop, .kexp, .subb, .shr, .mixc, .isubb, .ishr, .imixc, .enc, .dec] : List Instr) ∨
        ∃ r, i = .ark r := by
  cases i <;> simp [writeSet]

theorem writeSet_eq_keySchedule_iff : writeSet i = .keySchedule ↔ i = .kexp := by
  cases i <;> simp [writeSet]

namespace WriteSet.Frame

/-- RESL and RESH change by a result command alone (R27, R28). -/
theorem results_kept (h : w.Frame s t) (hw : w ≠ .results) : t.resl = s.resl ∧ t.resh = s.resh := by
  cases w with
  | none => obtain rfl := h; exact ⟨rfl, rfl⟩
  | results => exact absurd rfl hw
  | keySchedule => obtain ⟨_, _, rfl⟩ := h; exact ⟨rfl, rfl⟩
  | state => obtain ⟨_, rfl⟩ := h; exact ⟨rfl, rfl⟩

/-- STATE changes by a state command alone (R31). -/
theorem state_kept (h : w.Frame s t) (hw : w ≠ .state) : t.state = s.state := by
  cases w with
  | none => obtain rfl := h; rfl
  | results => obtain ⟨_, _, rfl⟩ := h; rfl
  | keySchedule => obtain ⟨_, _, rfl⟩ := h; rfl
  | state => exact absurd rfl hw

/-- The round-key RAM and the descriptor change by KEXP alone (R23, R34). -/
theorem schedule_kept (h : w.Frame s t) (hw : w ≠ .keySchedule) :
    t.rk = s.rk ∧ t.ksched = s.ksched := by
  cases w with
  | none => obtain rfl := h; exact ⟨rfl, rfl⟩
  | results => obtain ⟨_, _, rfl⟩ := h; exact ⟨rfl, rfl⟩
  | keySchedule => exact absurd rfl hw
  | state => obtain ⟨_, rfl⟩ := h; exact ⟨rfl, rfl⟩

/-- No write set holds a flag or what the host has got. -/
theorem flags_kept (h : w.Frame s t) :
    t.err = s.err ∧ t.ovr = s.ovr ∧ t.responses = s.responses := by
  cases w with
  | none => obtain rfl := h; exact ⟨rfl, rfl, rfl⟩
  | results => obtain ⟨_, _, rfl⟩ := h; exact ⟨rfl, rfl, rfl⟩
  | keySchedule => obtain ⟨_, _, rfl⟩ := h; exact ⟨rfl, rfl, rfl⟩
  | state => obtain ⟨_, rfl⟩ := h; exact ⟨rfl, rfl, rfl⟩

end WriteSet.Frame

/-- `exec_effect` for a given next state. -/
theorem exec_next_cases (h : exec i s = .next t) :
    (∃ e, e ≠ .invalidCoefficient ∧ t = raise e s) ∨
    ∃ u, (writeSet i).Frame s u ∧ t = complete u := by
  rcases exec_effect i s with ⟨e, he, hx⟩ | ⟨u, hu, hx⟩ <;> rw [hx] at h <;> cases h
  · exact .inl ⟨e, he, rfl⟩
  · exact .inr ⟨u, hu, rfl⟩

/-! ### The engine's turn and the step

`engineTurn_of_*` give the turn by the command in flight, `step_of_*` the step by the next turn. -/

/-- Between commands the engine keeps all state (R266). -/
theorem engineTurn_of_idle (h : s.busy = false) : engineTurn s = .next s := by
  simp [engineTurn, h]

/-- The engine's turn runs the command in flight (R36, R77). -/
theorem engineTurn_of_decode (hb : s.busy = true) (hd : decode s.cmd = .ok i) :
    engineTurn s = exec i s := by
  simp [engineTurn, hb, completeCommand, fetchWord, hd]

theorem engineTurn_of_busy (hb : s.busy = true) : engineTurn s = completeCommand s := by
  simp [engineTurn, hb]

/-- Everything an engine turn can do: nothing while idle, an error completion, or the success of the
command in flight (R253, R254, R266). -/
theorem engineTurn_next_cases (h : engineTurn s = .next t) :
    t = s ∨
    (∃ e, e ≠ .invalidCoefficient ∧ t = raise e s) ∨
    ∃ i u, s.busy = true ∧ decode s.cmd = .ok i ∧ (writeSet i).Frame s u ∧ t = complete u := by
  cases hb : s.busy with
  | false =>
    rw [engineTurn_of_idle hb] at h
    cases h
    exact .inl rfl
  | true =>
    rw [engineTurn_of_busy hb] at h
    rcases completeCommand_cases s with ⟨i, hd, hx⟩ | ⟨_, _, hx⟩ <;> rw [hx] at h
    · rcases exec_next_cases h with he | ⟨u, hu, ht⟩
      · exact .inr (.inl he)
      · exact .inr (.inr ⟨i, u, rfl, hd, hu, ht⟩)
    · cases h
      exact .inr (.inl ⟨.illegalCommand, by decide, rfl⟩)

/-- Every completion is a next state (R250). -/
theorem completeCommand_next (s : State) : ∃ t, completeCommand s = .next t := by
  rcases completeCommand_cases s with ⟨i, _, h⟩ | ⟨_, _, h⟩
  · rcases exec_effect i s with ⟨e, _, hx⟩ | ⟨u, _, hx⟩
    · exact ⟨_, h.trans hx⟩
    · exact ⟨_, h.trans hx⟩
  · exact ⟨_, h⟩

/-- The engine never clears ERR and leaves OVR as it is (R253, R254). -/
theorem engineTurn_flags (h : engineTurn s = .next t) :
    (s.err = true → t.err = true) ∧ t.ovr = s.ovr := by
  rcases engineTurn_next_cases h with rfl | ⟨e, _, rfl⟩ | ⟨i, u, _, _, hu, rfl⟩
  · exact ⟨id, rfl⟩
  · exact ⟨fun _ => rfl, rfl⟩
  · obtain ⟨herr, hovr, _⟩ := hu.flags_kept
    exact ⟨herr.trans, hovr⟩

/-- An engine turn that changes the round-key RAM or the descriptor is a successful KEXP (R23,
R34). -/
theorem engineTurn_schedule_changed (h : engineTurn s = .next t)
    (hch : t.rk ≠ s.rk ∨ t.ksched ≠ s.ksched) :
    s.busy = true ∧ decode s.cmd = .ok .kexp ∧
      ∃ k, keySizeOf s.keylen = some k ∧ t = complete (writeSchedule k s) := by
  rcases engineTurn_next_cases h with rfl | ⟨e, _, rfl⟩ | ⟨i, u, hb, hd, hu, rfl⟩
  · simp at hch
  · simp at hch
  · by_cases hw : writeSet i = .keySchedule
    · obtain rfl := writeSet_eq_keySchedule_iff.1 hw
      obtain ⟨k, hk, rfl⟩ := hu
      exact ⟨hb, hd, k, hk, rfl⟩
    · obtain ⟨hrk, hks⟩ := hu.schedule_kept hw
      simp [hrk, hks] at hch

theorem step_of_engine {rest : List Turn} (h : s.schedule = .engine :: rest) :
    step s = engineTurn { s with schedule := rest } := by
  simp [step, h, takeTurn]

theorem step_of_host {a : HostAccess} {rest : List Turn} (h : s.schedule = .host a :: rest) :
    step s = .next (hostAccess a { s with schedule := rest }) := by
  simp [step, h, takeTurn]

theorem step_of_nil (h : s.schedule = []) : step s = engineTurn s := by
  simp [step, h]

/-! ### Host accesses -/

/-- An offset names one register, the one that stands there in the map (10_state.md section 2). -/
theorem regAt_eq_some {off : Offset} {reg : WindowReg} (h : regAt off = some reg) :
    off = reg.offset := by
  have hoff : off.toNat % 4 = 0 := by
    by_contra hne
    rw [regAt, if_pos hne] at h
    cases h
  have hlt := off.isLt
  rw [regAt, if_neg (not_not.2 hoff)] at h
  apply BitVec.eq_of_toNat_eq
  dsimp only at h
  split at h
  case h_11 =>
    split_ifs at h
    all_goals
      cases h
      simp [WindowReg.offset, Fin.ofNat]
      omega
  all_goals
    cases h
    simp [WindowReg.offset]
    omega

/-- Every access is answered, and an error answer to a read carries 0 (R53). No access writes the
round-key RAM, the descriptor or LASTERR. -/
theorem hostAccess_answers (a : HostAccess) (s : State) :
    ∃ r u, hostAccess a s = respond r u ∧ (∀ d, r = .read true d → d = 0) ∧
      u.responses = s.responses ∧ u.rk = s.rk ∧ u.ksched = s.ksched ∧ u.lastErr = s.lastErr := by
  cases a with
  | read width off =>
    rcases hostRead_cases width off s with ⟨_, h⟩ | ⟨_, _, _, _, h⟩ | ⟨_, _, _, h⟩
    · exact ⟨_, s, h, by rintro d ⟨⟩; rfl, rfl, rfl, rfl, rfl⟩
    · exact ⟨_, _, h, nofun, rfl, rfl, rfl, rfl⟩
    · exact ⟨_, s, h, nofun, rfl, rfl, rfl, rfl⟩
  | write width off d =>
    rcases hostWrite_cases width off d s with ⟨_, h⟩ | ⟨_, _, _, h⟩ | ⟨reg, _, _, h⟩
    · exact ⟨_, s, h, nofun, rfl, rfl, rfl, rfl⟩
    · exact ⟨_, _, h, nofun, rfl, rfl, rfl, rfl⟩
    · obtain ⟨_, _, hrk, hks, hle, _, hrs, _⟩ := writeReg_keeps reg d s
      exact ⟨_, _, h, nofun, hrs, hrk, hks, hle⟩

/-- A register write to a read-only register changes nothing (R54). -/
theorem writeReg_of_readOnly {reg : WindowReg}
    (h : reg ∈ ([.id, .kstat, .resl, .resh] : List WindowReg) ∨ ∃ i, reg = .rkw i) (d : Word)
    (s : State) : writeReg reg d s = s := by
  rcases h with h | ⟨i, rfl⟩
  · simp only [List.mem_cons, List.not_mem_nil, or_false] at h
    rcases h with rfl | rfl | rfl | rfl <;> rfl
  · rfl

/-- A legal write while idle writes its register and is answered (R54, R57). -/
theorem hostAccess_write_of_idle (hb : s.busy = false) (reg : WindowReg) (d : Word) :
    hostAccess (.write .w32 reg.offset d) s = respond (.write false) (writeReg reg d s) := by
  simp [hostAccess, hostWrite, hb]

/-- A register write leaves ERR and OVR alone, unless the register is STATUS (R22, R258). -/
theorem writeReg_flags_kept {reg : WindowReg} (h : reg ≠ .status) (d : Word) (s : State) :
    (writeReg reg d s).err = s.err ∧ (writeReg reg d s).ovr = s.ovr := by
  cases reg with
  | status => exact absurd rfl h
  | _ => exact ⟨rfl, rfl⟩

/-- A host access either lowers neither flag, or is a STATUS write while idle (R22, R258). -/
theorem hostAccess_flags (a : HostAccess) (s : State) :
    ((s.err = true → (hostAccess a s).err = true) ∧ (s.ovr = true → (hostAccess a s).ovr = true)) ∨
    (s.busy = false ∧ ∃ d, a = .write .w32 0x004 d ∧
      hostAccess a s = respond (.write false) (clearFlags d s)) := by
  cases a with
  | read width off =>
    rcases hostRead_cases width off s with ⟨_, h⟩ | ⟨_, _, _, _, h⟩ | ⟨_, _, _, h⟩ <;>
      exact .inl (by rw [hostAccess, h]; exact ⟨id, id⟩)
  | write width off d =>
    rcases hostWrite_cases width off d s with ⟨_, h⟩ | ⟨_, _, _, h⟩ | ⟨reg, ht, hb, h⟩
    · exact .inl (by rw [hostAccess, h]; exact ⟨id, id⟩)
    · exact .inl (by rw [hostAccess, h]; exact ⟨id, fun _ => rfl⟩)
    · by_cases hreg : reg = .status
      · subst hreg
        obtain ⟨rfl, hoff⟩ := (legalTarget_eq_some_iff width off _).1 ht
        obtain rfl := regAt_eq_some hoff
        exact .inr ⟨hb, d, rfl, h⟩
      · obtain ⟨herr, hovr⟩ := writeReg_flags_kept hreg d s
        exact .inl (by rw [hostAccess, h]; exact ⟨herr.trans, hovr.trans⟩)

/-- A step lowers neither flag, or is a STATUS write while idle (R22, R258). -/
theorem step_flags (h : step s = .next t) :
    ((s.err = true → t.err = true) ∧ (s.ovr = true → t.ovr = true)) ∨
    (s.busy = false ∧ ∃ d rest, s.schedule = .host (.write .w32 0x004 d) :: rest ∧
      t = respond (.write false) (clearFlags d { s with schedule := rest })) := by
  rcases step_cases s with ⟨_, hstep⟩ | ⟨rest, _, hstep⟩ | ⟨a, rest, hsched, hstep⟩ <;>
    rw [hstep] at h
  · obtain ⟨herr, hovr⟩ := engineTurn_flags h
    exact .inl ⟨herr, hovr.trans⟩
  · obtain ⟨herr, hovr⟩ := engineTurn_flags h
    exact .inl ⟨herr, hovr.trans⟩
  · cases h
    rcases hostAccess_flags a { s with schedule := rest } with hkept | ⟨hb, d, rfl, hclear⟩
    · exact .inl hkept
    · exact .inr ⟨hb, d, rest, hsched, hclear⟩

/-- While BUSY = 1 an access sets OVR when it is a legal write, and never clears it (R61). -/
theorem hostAccess_busy_ovr (a : HostAccess) (hb : s.busy = true) :
    (hostAccess a s).ovr = (s.ovr || legalWrite a) := by
  cases a with
  | read width off =>
    rcases hostRead_cases width off s with ⟨_, h⟩ | ⟨_, _, _, _, h⟩ | ⟨_, _, _, h⟩ <;>
      simp [hostAccess, h, legalWrite, busyRead]
  | write width off d =>
    rcases hostWrite_cases width off d s with ⟨ht, h⟩ | ⟨_, ht, _, h⟩ | ⟨_, _, hf, _⟩
    · simp [hostAccess, h, legalWrite, ht]
    · simp [hostAccess, h, legalWrite, ht]
    · rw [hb] at hf; cases hf

/-! ### What no command reads -/

/-- `s` with other values for OVR and for what the host has got. -/
def withHostSide (o : Bool) (rs : List BusResponse) (n : Nat) (s : State) : State :=
  { s with ovr := o, responses := rs, draws := n }

/-- `f` on the next state of an outcome. -/
def mapNext (f : State → State) :
    Host.Outcome State Fault Refusal → Host.Outcome State Fault Refusal
  | .next t => .next (f t)
  | .fault r => .fault r
  | .refused r => .refused r

section
variable (i : Instr) (s : State) (o : Bool) (rs : List BusResponse) (n : Nat)

@[simp] theorem withHostSide_cmd : (withHostSide o rs n s).cmd = s.cmd := rfl
@[simp] theorem withHostSide_keylen : (withHostSide o rs n s).keylen = s.keylen := rfl
@[simp] theorem withHostSide_ksched : (withHostSide o rs n s).ksched = s.ksched := rfl

/-- The block commands neither read nor write OVR and what the host has got. -/
theorem withBlock_withHostSide (f : Vector Word 60 → Nat → Vector Word 4 → Vector Word 4) :
    withBlock f (withHostSide o rs n s) = mapNext (withHostSide o rs n) (withBlock f s) := by
  rw [withBlock, withBlock, apply_ite (mapNext _), withHostSide_ksched]
  cases s.ksched <;> rfl

/-- A command neither reads nor writes OVR and what the host has got (R36, R254). -/
theorem exec_withHostSide :
    exec i (withHostSide o rs n s) = mapNext (withHostSide o rs n) (exec i s) := by
  cases i with
  | pmod =>
    rw [exec, exec, execPmod, execPmod, apply_ite (mapNext _)]
    rfl
  | pcoef idx =>
    rw [exec, exec, execPcoef, execPcoef, apply_ite (mapNext _), apply_ite (mapNext _)]
    rfl
  | rcon j =>
    rw [exec, exec, execRcon, execRcon, apply_ite (mapNext _)]
    rfl
  | kexp =>
    rw [exec, exec, execKexp, execKexp, withHostSide_keylen]
    cases keySizeOf s.keylen <;> rfl
  | ark r =>
    rw [exec, exec, execArk, execArk, withHostSide_ksched]
    cases s.ksched with
    | none => rfl
    | some k =>
      dsimp only
      rw [apply_ite (mapNext _)]
      rfl
  | enc => exact withBlock_withHostSide s o rs n cipher
  | dec => exact withBlock_withHostSide s o rs n invCipher
  | _ => rfl

/-- Neither does the completion of the word in flight, legal or not (R76). -/
theorem completeCommand_withHostSide :
    completeCommand (withHostSide o rs n s) =
      mapNext (withHostSide o rs n) (completeCommand s) := by
  simp only [completeCommand, fetchWord, withHostSide_cmd]
  split
  · exact exec_withHostSide _ s o rs n
  · rfl

end

/-! ### Runs of host accesses -/

theorem run_succ_of_step (h : step s = .next t) (n : Nat) : run (n + 1) s = run n t := by
  simp only [run, Host.Core.run]
  rw [show Sys2Proof.core.step s = .next t from h]

/-- The step of a host access while BUSY = 1 (R61, R62). -/
theorem step_hostAccess_busy (a : HostAccess) (rest : List Turn) (hb : s.busy = true) :
    ∃ rs n, step { s with schedule := .host a :: rest } =
      .next (withHostSide (s.ovr || legalWrite a) rs n { s with schedule := rest }) := by
  obtain ⟨o, rs, n, ha⟩ := hostAccess_busy (s := { s with schedule := rest }) a hb
  have ho := hostAccess_busy_ovr (s := { s with schedule := rest }) a hb
  rw [ha] at ho
  exact ⟨rs, n, (step_of_host rfl).trans (congrArg _ (ho ▸ ha))⟩

/-- Host accesses while BUSY = 1 set OVR when one of them is a legal write, and change nothing else
but what the host has got (R61, R62). -/
theorem run_hostAccesses_busy (accs : List HostAccess) (rest : List Turn) (m : Nat) (s : State)
    (hb : s.busy = true) :
    ∃ rs n, run (accs.length + m) { s with schedule := accs.map .host ++ rest } =
      run m (withHostSide (s.ovr || accs.any legalWrite) rs n { s with schedule := rest }) := by
  induction accs generalizing s with
  | nil => exact ⟨s.responses, s.draws, by simp [withHostSide]⟩
  | cons a accs ih =>
    obtain ⟨rs₁, n₁, hstep⟩ := step_hostAccess_busy a (accs.map .host ++ rest) hb
    obtain ⟨rs, n, hrun⟩ := ih (withHostSide (s.ovr || legalWrite a) rs₁ n₁ s) hb
    refine ⟨rs, n, ?_⟩
    rw [List.length_cons, Nat.add_right_comm, List.any_cons, ← Bool.or_assoc]
    exact (run_succ_of_step hstep _).trans hrun

/-! ### The invariant -/

theorem scheduleHeld_writeSchedule (k : KeySize) (s : State) :
    ScheduleHeld (writeSchedule k s) := by
  rintro _ ⟨⟩
  rw [writeSchedule, take_scheduleRam_keyexp (length_keyWords s k)]

/-- A command leaves the RAM and the descriptor as they are, or writes both (R34, R183). -/
theorem WriteSet.Frame.scheduleHeld (h : w.Frame s t) (hs : ScheduleHeld s) : ScheduleHeld t := by
  cases w with
  | none => obtain rfl := h; exact hs
  | results => obtain ⟨_, _, rfl⟩ := h; exact hs
  | keySchedule => obtain ⟨k, _, rfl⟩ := h; exact scheduleHeld_writeSchedule k s
  | state => obtain ⟨_, rfl⟩ := h; exact hs

theorem inv_of_engineTurn (hs : Inv s) (h : engineTurn s = .next t) : Inv t := by
  obtain ⟨hheld, hcode, hbus⟩ := hs
  rcases engineTurn_next_cases h with rfl | ⟨e, he, rfl⟩ | ⟨i, u, _, _, hu, rfl⟩
  · exact ⟨hheld, hcode, hbus⟩
  · exact ⟨hheld, fun heq => he (Option.some.inj heq), hbus⟩
  · obtain ⟨_, _, hrs⟩ := hu.flags_kept
    exact ⟨hu.scheduleHeld hheld, nofun, fun d hd => hbus d (hrs ▸ hd)⟩

theorem inv_hostAccess (hs : Inv s) (a : HostAccess) : Inv (hostAccess a s) := by
  obtain ⟨hheld, hcode, hbus⟩ := hs
  obtain ⟨r, u, h, hr, hrs, hrk, hks, hle⟩ := hostAccess_answers a s
  rw [h]
  refine ⟨fun k hk => ?_, fun heq => hcode (hle ▸ heq), fun d hd => ?_⟩
  · rw [respond_rk, hrk]
    exact hheld k (hks ▸ hk)
  · rw [respond_responses, hrs] at hd
    rcases List.mem_cons.1 hd with hd | hd
    · exact hr d hd.symm
    · exact hbus d hd

/-- The invariant does not speak of the schedule of turns. -/
theorem inv_schedule (hs : Inv s) (rest : List Turn) : Inv { s with schedule := rest } := by
  obtain ⟨hheld, hcode, hbus⟩ := hs
  exact ⟨hheld, hcode, hbus⟩

end

end Sys2Proof.Machine

/-! ## The statements of 10_state.md -/

namespace Sys2Proof.Proofs

open Sys2Proof.Machine Sys2Proof.Safety

/-- Settles O54: an engine turn and a host access keep the invariant. -/
theorem stepKeepsInv : Obligations.StepKeepsInv := by
  intro s t hs h
  rcases step_cases s with ⟨_, hstep⟩ | ⟨rest, _, hstep⟩ | ⟨a, rest, _, hstep⟩ <;> rw [hstep] at h
  · exact inv_of_engineTurn hs h
  · exact inv_of_engineTurn (inv_schedule hs rest) h
  · cases h
    exact inv_hostAccess (inv_schedule hs rest) a

/-- Settles O11: an error writes no register, and these commands' write sets hold neither RESL nor
RESH. -/
theorem resultRegistersKept : Obligations.ResultRegistersKept := by
  intro i s t h hkeeps
  rcases exec_next_cases h with ⟨e, _, rfl⟩ | ⟨u, hu, rfl⟩
  · exact ⟨rfl, rfl⟩
  · have hi := hkeeps.resolve_right (not_not.2 rfl)
    exact hu.results_kept (writeSet_ne_results_iff.2 hi)

/-- Settles O12: by the write set of each command. -/
theorem stateAndScheduleWriters : Obligations.StateAndScheduleWriters := by
  intro i s t h
  rcases exec_next_cases h with ⟨e, _, rfl⟩ | ⟨u, hu, rfl⟩
  · exact ⟨fun _ => rfl, fun _ => ⟨rfl, rfl⟩⟩
  · refine ⟨fun ⟨hlist, hark⟩ => hu.state_kept fun hw => ?_, fun hk => hu.schedule_kept ?_⟩
    · rcases writeSet_eq_state_iff.1 hw with hi | ⟨r, hi⟩
      · exact hlist hi
      · exact hark r hi
    · exact fun hw => hk (writeSet_eq_keySchedule_iff.1 hw)

/-- Settles O32: the schedule written is a function of the key words. -/
theorem kexpReadsOnlyTheKeyWords : Obligations.KexpReadsOnlyTheKeyWords := by
  intro s s' k hk hlen hkey
  refine ⟨_, _, execKexp_of_keySize hk, execKexp_of_keySize (k := k) (hlen ▸ hk), ?_, rfl, rfl⟩
  rw [complete_rk, complete_rk, writeSchedule, writeSchedule, keyWords_congr hkey]

/-- Settles O57: accesses while BUSY = 1 change only the host side of the state, which no completion
reads. -/
theorem accessesWhileBusyDoNotChangeTheResult :
    Obligations.AccessesWhileBusyDoNotChangeTheResult := by
  intro s accs rest hb
  have hstep : ∀ u : State, u.busy = true →
      step { u with schedule := .engine :: rest } = completeCommand { u with schedule := rest } :=
    fun u hu => (step_of_engine rfl).trans (engineTurn_of_busy hu)
  obtain ⟨t, ht⟩ := completeCommand_next { s with schedule := rest }
  have hturn := (engineTurn_of_busy (s := { s with schedule := rest }) hb).trans ht
  have hovr : t.ovr = s.ovr := (engineTurn_flags hturn).2
  obtain ⟨rs, n, hrun⟩ := run_hostAccesses_busy accs (.engine :: rest) 1 s hb
  have ht' := completeCommand_withHostSide { s with schedule := rest }
    (s.ovr || accs.any legalWrite) rs n
  rw [ht] at ht'
  exact ⟨t, withHostSide (s.ovr || accs.any legalWrite) rs n t,
    run_succ_of_step ((hstep s hb).trans ht) 0,
    hrun.trans (run_succ_of_step ((hstep (withHostSide _ rs n s) hb).trans ht') 0),
    rfl, by rw [hovr]; rfl⟩

/-- Settles O58: the engine lowers no flag, and of the host's accesses only a STATUS write does. -/
theorem stickyFlagsClearedOnlyByStatusWrite : Obligations.StickyFlagsClearedOnlyByStatusWrite := by
  intro s t h
  rcases step_flags h with ⟨herr, hovr⟩ | ⟨hb, d, rest, hsched, rfl⟩
  · exact ⟨fun h₁ h₀ => by simp [herr h₁] at h₀, fun h₁ h₀ => by simp [hovr h₁] at h₀⟩
  · exact ⟨fun h₁ h₀ => ⟨hb, d, rest, hsched, by simpa [h₁] using h₀⟩,
      fun h₁ h₀ => ⟨hb, d, rest, hsched, by simpa [h₁] using h₀⟩⟩

/-- Settles O59: a host access leaves both alone, and the engine writes them by KEXP, which has one
command word. -/
theorem scheduleChangedOnlyByKexp : Obligations.ScheduleChangedOnlyByKexp := by
  intro s t h hch
  rcases step_cases s with ⟨hsched, hstep⟩ | ⟨rest, hsched, hstep⟩ | ⟨a, rest, _, hstep⟩ <;>
    rw [hstep] at h
  · obtain ⟨hb, hd, k, hk, rfl⟩ := engineTurn_schedule_changed h hch
    exact ⟨hb, (encode_of_decode hd).symm, mem_of_keySizeOf hk, rfl, .inl hsched⟩
  · obtain ⟨hb, hd, k, hk, rfl⟩ := engineTurn_schedule_changed h hch
    exact ⟨hb, (encode_of_decode hd).symm, mem_of_keySizeOf hk, rfl, .inr ⟨rest, hsched⟩⟩
  · cases h
    obtain ⟨r, u, ha, _, _, hrk, hks, _⟩ := hostAccess_answers a { s with schedule := rest }
    simp [ha, hrk, hks] at hch

/-- Settles O4: both turns are the engine's, which runs the command in flight. -/
theorem stepRunsDecodedCommand : Obligations.StepRunsDecodedCommand := by
  intro s i hb hd
  exact ⟨fun h => (step_of_nil h).trans (engineTurn_of_decode hb hd),
    fun rest h => (step_of_engine h).trans (engineTurn_of_decode hb hd)⟩

/-- Settles O5: the next turn is the host's, or the engine's while it is idle. -/
theorem stepTakesHostAndIdleTurns : Obligations.StepTakesHostAndIdleTurns :=
  ⟨fun _ _ _ h => step_of_host h,
    fun _ hb h => (step_of_nil h).trans (engineTurn_of_idle hb),
    fun _ _ hb h => (step_of_engine h).trans (engineTurn_of_idle hb)⟩

/-- Settles O45: each field of STATUS stands in its own part of the word. -/
theorem statusWordLayout : Obligations.StatusWordLayout := by
  intro s
  refine ⟨getLsbD_statusWord s 0, getLsbD_statusWord s 1, getLsbD_statusWord s 2,
    getLsbD_statusWord s 3, BitVec.eq_of_getLsbD_eq fun i hi => ?_,
    BitVec.eq_of_getLsbD_eq fun i hi => ?_⟩ <;>
    rw [readReg, BitVec.getLsbD_extractLsb', decide_eq_true hi, Bool.true_and, getLsbD_statusWord,
      if_neg (by omega), if_neg (by omega), if_neg (by omega), if_neg (by omega)]
  · rw [Nat.add_sub_cancel_left]
  · rw [BitVec.getLsbD_of_ge _ _ (by omega)]
    exact BitVec.getLsbD_zero.symm

/-- Settles O46: KSTAT is a function of the descriptor, and KSV gates the RKW window. -/
theorem kstatAndRkwReads : Obligations.KstatAndRkwReads := by
  intro s
  have hkstat : ∀ ks, s.ksched = ks →
      readReg .kstat s = kstatWord { State.reset with ksched := ks } :=
    fun ks h => kstatWord_of_ksched h
  refine ⟨fun h => ⟨hkstat _ h, fun i => ?_⟩, hkstat _, hkstat _, hkstat _, fun h i => if_pos h⟩
  rw [readReg, (ksv_eq_false_iff s).2 h]
  rfl

/-- Settles O48: an idle write is the register write, which read-only registers ignore. -/
theorem idleCmdAndReadOnlyWrites : Obligations.IdleCmdAndReadOnlyWrites := by
  intro s data hb
  refine ⟨hostAccess_write_of_idle hb .cmd data, fun reg hreg => ?_⟩
  rw [hostAccess_write_of_idle hb, writeReg_of_readOnly hreg]
  rfl

end Sys2Proof.Proofs

/-! ## Rules about the register window

Which register an offset names, what each kind of host access does, and what a register holds after a
register write: what the statements of 20_memory.md rest on. -/

namespace Sys2Proof.Machine

/-! ### The map of the window -/

theorem regAt_eq_some_iff {off : Offset} {reg : WindowReg} :
    regAt off = some reg ↔ reg.offset = off :=
  ⟨fun h => (regAt_eq_some h).symm, fun h => h ▸ regAt_offset reg⟩

/-- The offsets that name no register: the misaligned ones and the three reserved ranges of the map
(R53). -/
theorem regAt_eq_none_iff {off : Offset} :
    regAt off = none ↔
      off.toNat % 4 ≠ 0 ∨ (0x028 ≤ off.toNat ∧ off.toNat ≤ 0x02F) ∨
        (0x060 ≤ off.toNat ∧ off.toNat ≤ 0x0FF) ∨ 0x1F0 ≤ off.toNat := by
  by_cases hoff : off.toNat % 4 = 0
  · rw [regAt, if_neg (not_not.2 hoff)]
    dsimp only
    split
    case h_11 =>
      split_ifs
      case neg =>
        refine iff_of_true rfl (.inr ?_)
        simp only [imp_false] at *
        omega
      all_goals exact iff_of_false nofun (by omega)
    all_goals exact iff_of_false nofun (by omega)
  · exact iff_of_true (if_pos hoff) (.inl hoff)

theorem legalTarget_eq_none_iff {width : AccessWidth} {off : Offset} :
    legalTarget width off = none ↔ width ≠ .w32 ∨ regAt off = none := by
  cases width <;> simp [legalTarget]

/-! ### One access by its kind -/

section
variable {s : State} {reg : WindowReg}

/-- A legal write while BUSY = 1 is dropped (R61). -/
theorem hostAccess_write_of_busy (hb : s.busy = true) (reg : WindowReg) (d : Word) :
    hostAccess (.write .w32 reg.offset d) s = respond (.write false) { s with ovr := true } := by
  simp [hostAccess, hostWrite, hb]

/-- A read of what the running command may change draws a value (R62). -/
theorem hostAccess_read_of_unspecified (hb : s.busy = true)
    (hr : reg.unspecifiedWhileBusy = true) :
    hostAccess (.read .w32 reg.offset) s = busyRead s := by
  simp [hostAccess, hostRead, hb, hr]

/-- Every other legal read answers with the register (R56). -/
theorem hostAccess_read_of_specified (h : s.busy = false ∨ reg.unspecifiedWhileBusy = false) :
    hostAccess (.read .w32 reg.offset) s = respond (.read false (readReg reg s)) s := by
  simp [hostAccess, hostRead, Bool.and_eq_false_iff.2 h]

/-- The registers a running command may be changing (R62). -/
theorem unspecifiedWhileBusy_eq_true_iff :
    reg.unspecifiedWhileBusy = true ↔
      reg ∈ ([.resl, .resh, .kstat] : List WindowReg) ∨ (∃ c, reg = .state c) ∨
        ∃ i, reg = .rkw i := by
  cases reg <;> simp [WindowReg.unspecifiedWhileBusy]

/-- The registers that a read while BUSY = 1 returns exactly (R62). -/
theorem unspecifiedWhileBusy_eq_false_iff :
    reg.unspecifiedWhileBusy = false ↔
      reg ∈ ([.id, .status, .cmd, .opa, .opb, .keylen, .blklen] : List WindowReg) ∨
        ∃ k, reg = .key k := by
  cases reg <;> simp [WindowReg.unspecifiedWhileBusy]

end

/-! ### A register after a register write -/

section
variable (d : Word) (s : State)

/-- Accepting a command sets bit 0 of STATUS (R22, R24). -/
theorem statusWord_accept : statusWord (accept d s) = statusWord s ||| 1 := by
  apply BitVec.eq_of_getLsbD_eq
  intro i _
  rw [BitVec.getLsbD_or, getLsbD_statusWord, getLsbD_statusWord]
  cases i with
  | zero => simp
  | succ i => simp

/-- The mask of a STATUS write has the data's bits 1 and 2 and no other. -/
theorem getLsbD_and_six (i : Nat) :
    (d &&& 0x6).getLsbD i = (d.getLsbD i && (decide (i = 1) || decide (i = 2))) := by
  rw [BitVec.getLsbD_and]
  rcases i with _ | _ | _ | i
  · rfl
  · rfl
  · rfl
  · have h : (0x6#32).getLsbD (i + 3) = false := by
      simp [BitVec.getLsbD, Nat.testBit_succ]
    simp [h]

/-- A STATUS write clears the bits of ERR and OVR that it names (R22, R56). -/
theorem statusWord_clearFlags :
    statusWord (clearFlags d s) = statusWord s &&& ~~~(d &&& 0x6) := by
  apply BitVec.eq_of_getLsbD_eq
  intro i hi
  rw [BitVec.getLsbD_and, BitVec.getLsbD_not, getLsbD_and_six, getLsbD_statusWord,
    getLsbD_statusWord, decide_eq_true hi, Bool.true_and]
  rcases i with _ | _ | _ | i <;> simp

/-- The low byte of a word, zero-extended (R55). -/
theorem setWidth_lowByte : (d.extractLsb' 0 8).setWidth 32 = d &&& 0xFF := by
  apply BitVec.eq_of_toNat_eq
  rw [BitVec.toNat_setWidth, BitVec.extractLsb'_toNat, Nat.shiftRight_zero, BitVec.toNat_and]
  exact (Nat.mod_eq_of_lt (by omega)).trans (Nat.and_two_pow_sub_one_eq_mod d.toNat 8).symm

/-- A register write shows in no other register but for the BUSY bit that a CMD write raises (R24,
R54). The pairs left to look at are those of one register, and two words of STATE or of KEY. -/
theorem readReg_writeReg_of_ne {w r : WindowReg} (hne : w ≠ r) (hcmd : ¬(w = .cmd ∧ r = .status)) :
    readReg r (writeReg w d s) = readReg r s := by
  cases w <;> cases r
  case cmd.status => exact absurd ⟨rfl, rfl⟩ hcmd
  case status.status | cmd.cmd | opa.opa | opb.opb | keylen.keylen | blklen.blklen =>
    exact absurd rfl hne
  case state.state c c' =>
    exact Vector.getElem_set_ne c.isLt c'.isLt fun h => hne (congrArg _ (Fin.ext h))
  case key.key k k' =>
    exact Vector.getElem_set_ne k.isLt k'.isLt fun h => hne (congrArg _ (Fin.ext h))
  all_goals rfl

end

end Sys2Proof.Machine

/-! ## The statements of 20_memory.md -/

namespace Sys2Proof.Proofs

open Sys2Proof.Machine

/-- Settles O43: each register stands at its own offset, and the map leaves out just the misaligned
offsets and the reserved ranges. -/
theorem registerMapIsExact : Obligations.RegisterMapIsExact :=
  ⟨fun _ _ => regAt_eq_some_iff, fun _ => regAt_eq_none_iff⟩

/-- Settles O44: such an access reaches no register, and is only answered. -/
theorem busErrorChangesNothing : Obligations.BusErrorChangesNothing := by
  intro s width off data h
  have ht : legalTarget width off = none :=
    legalTarget_eq_none_iff.2 (h.imp_right regAt_eq_none_iff.2)
  constructor
  · exact hostAccess_of_busError (a := .read width off)
      (by rintro _ _ (h | ⟨_, h⟩) <;> cases h; exact ht)
  · exact hostAccess_of_busError (a := .write width off data)
      (by rintro _ _ (h | ⟨_, h⟩) <;> cases h; exact ht)

/-- Settles O47: the write is seen in its own register, and a CMD write in STATUS too. -/
theorem readAfterIdleWrite : Obligations.ReadAfterIdleWrite := by
  intro s w r data hb
  dsimp only
  rw [hostAccess_write_of_idle hb, readReg_respond]
  obtain ⟨_, _, _, _, _, _, hrs, _⟩ := writeReg_keeps w data s
  refine ⟨congrArg _ hrs, ?_⟩
  by_cases hcmd : w = .cmd ∧ r = .status
  · rw [if_pos hcmd]
    obtain ⟨rfl, rfl⟩ := hcmd
    exact statusWord_accept data s
  rw [if_neg hcmd]
  by_cases hne : w ≠ r
  · rw [if_pos hne]
    exact readReg_writeReg_of_ne data s hne hcmd
  rw [if_neg hne]
  obtain rfl := not_not.1 hne
  cases w with
  | status => exact statusWord_clearFlags data s
  | keylen | blklen => exact setWidth_lowByte data
  | state c => exact Vector.getElem_set_self c.isLt
  | key k => exact Vector.getElem_set_self k.isLt
  | _ => rfl

/-- Settles O49: such a write only sets OVR and is answered. -/
theorem busyWriteIsDropped : Obligations.BusyWriteIsDropped :=
  fun _ reg data hb => hostAccess_write_of_busy hb reg data

/-- Settles O50: a read draws a value exactly while the register is unspecified. -/
theorem hostReads : Obligations.HostReads :=
  fun _ _ =>
    ⟨fun hb hr => hostAccess_read_of_unspecified hb (unspecifiedWhileBusy_eq_true_iff.2 hr),
      fun h => hostAccess_read_of_specified (h.imp_right unspecifiedWhileBusy_eq_false_iff.2)⟩

end Sys2Proof.Proofs

/-! ## Rules about command words

Which word each command is assembled to and decoded from, and which row of R75 it matches: what the
statements of 30_encoding.md rest on. -/

namespace Sys2Proof.Machine

open Sys2Proof.Tables

/-! ### Decode inverts encode -/

section
variable {w : Word}

theorem wellFormed_pcoef_toInt (b : Byte) : (Instr.pcoef b.toInt).WellFormed := by
  have hlo : -128 ≤ b.toInt := b.le_toInt
  have hhi : b.toInt < 128 := b.toInt_lt
  simp only [Instr.WellFormed, Instr.wellFormed, Bool.and_eq_true, decide_eq_true_eq]
  omega

theorem wellFormed_rcon_toNat (b : Byte) : (Instr.rcon b.toNat).WellFormed :=
  decide_eq_true (Nat.le_of_lt_succ b.isLt)

theorem wellFormed_ark_toNat (b : Byte) : (Instr.ark b.toNat).WellFormed :=
  decide_eq_true (Nat.le_of_lt_succ b.isLt)

theorem wellFormed_of_decodeN {i j : Instr} (h : decodeN i w = .ok j) (hi : i.WellFormed) :
    j.WellFormed := by
  obtain ⟨_, _, rfl⟩ := decodeN_eq_ok_iff.1 h
  exact hi

theorem wellFormed_of_decodeI {f : Byte → Instr} {j : Instr} (h : decodeI f w = .ok j)
    (hf : ∀ b, (f b).WellFormed) : j.WellFormed := by
  obtain ⟨_, rfl⟩ := decodeI_eq_ok_iff.1 h
  exact hf _

/-- The immediates the decoder reads are in the ranges of R78. -/
theorem wellFormed_of_decode {i : Instr} (h : decode w = .ok i) : i.WellFormed := by
  unfold decode at h
  split at h
  case h_6 => exact wellFormed_of_decodeI h wellFormed_pcoef_toInt
  case h_16 => exact wellFormed_of_decodeI h wellFormed_rcon_toNat
  case h_21 => exact wellFormed_of_decodeI h wellFormed_ark_toNat
  case h_27 => cases h
  all_goals exact wellFormed_of_decodeN h rfl

/-- A word with OP 0x14 and zero MID is a PCOEF (R73, R75). -/
theorem decode_of_pcoef_fields (hop : opField w = 0x14) (hmid : midField w = 0) :
    decode w = .ok (.pcoef (immField w).toInt) := by
  rw [decode, hop]
  exact decodeI_eq_ok_iff.2 ⟨hmid, rfl⟩

/-- A word with OP 0x42 and zero MID is an RCON (R73, R75). -/
theorem decode_of_rcon_fields (hop : opField w = 0x42) (hmid : midField w = 0) :
    decode w = .ok (.rcon (immField w).toNat) := by
  rw [decode, hop]
  exact decodeI_eq_ok_iff.2 ⟨hmid, rfl⟩

/-- A word with OP 0x53 and zero MID is an ARK (R73, R75). -/
theorem decode_of_ark_fields (hop : opField w = 0x53) (hmid : midField w = 0) :
    decode w = .ok (.ark (immField w).toNat) := by
  rw [decode, hop]
  exact decodeI_eq_ok_iff.2 ⟨hmid, rfl⟩

/-- `sext_32` of `trunc_8` gives back a term index in the range of R78. -/
theorem toInt_ofInt_of_wellFormed {idx : Int} (h : (Instr.pcoef idx).WellFormed) :
    (BitVec.ofInt 8 idx).toInt = idx := by
  simp only [Instr.WellFormed, Instr.wellFormed, Bool.and_eq_true, decide_eq_true_eq] at h
  obtain ⟨hlo, hhi⟩ := h
  exact BitVec.toInt_ofInt_eq_self (by decide) hlo (Int.lt_add_one_of_le hhi)

/-- `zext_32` of `trunc_8` gives back a number in the range of R78. -/
theorem toNat_ofNat_of_le {n : Nat} (h : n ≤ 255) : (BitVec.ofNat 8 n).toNat = n :=
  Nat.mod_eq_of_lt (Nat.lt_succ_of_le h)

/-- The word of a command that can be assembled decodes to that command (R77, R78). -/
theorem decode_encode {i : Instr} (h : i.WellFormed) : decode (encode i) = .ok i := by
  cases i with
  | pcoef idx =>
    obtain ⟨hop, hmid, himm⟩ := Laws.CommandFields.pcoef idx
    rw [decode_of_pcoef_fields hop hmid, himm, Instr.imm8, toInt_ofInt_of_wellFormed h]
  | rcon j =>
    obtain ⟨hop, hmid, himm⟩ := Laws.CommandFields.rcon j
    rw [decode_of_rcon_fields hop hmid, himm, Instr.imm8, toNat_ofNat_of_le (of_decide_eq_true h)]
  | ark r =>
    obtain ⟨hop, hmid, himm⟩ := Laws.CommandFields.ark r
    rw [decode_of_ark_fields hop hmid, himm, Instr.imm8, toNat_ofNat_of_le (of_decide_eq_true h)]
  | _ => rfl

/-! ### The rows of the opcode map -/

/-- The mask of each command's format: format I leaves IMM8 free (R75). -/
def maskOf : Instr → Word
  | .pcoef _ | .rcon _ | .ark _ => 0xFFFFFF00
  | _ => 0xFFFFFFFF

/-- The row of R75 that a command belongs to, made from its OP and its format. -/
def rowOf (i : Instr) : OpcodeRow := ⟨mnemonicOf i, i.opcode ++ 0#16 ++ 0#8, maskOf i⟩

/-- One command for each row of R75, in the table's order. -/
def rowCommands : List Instr :=
  [.nop, .padd, .pmul, .pmod, .pdeg, .pcoef 0, .gadd, .gmul, .ginv, .sbox, .isbox, .aff, .iaff,
    .rotw, .subw, .rcon 0, .kexp, .subb, .shr, .mixc, .ark 0, .isubb, .ishr, .imixc, .enc, .dec]

theorem opcodeTable_eq_map_rowOf : opcodeTable = rowCommands.map rowOf := rfl

/-- Every command has its row in the table: the rows of format I leave the immediate open. -/
theorem rowOf_mem_opcodeTable (i : Instr) : rowOf i ∈ opcodeTable := by
  rw [opcodeTable_eq_map_rowOf]
  cases i with
  | pcoef _ => exact List.mem_map_of_mem (a := Instr.pcoef 0) (by decide)
  | rcon _ => exact List.mem_map_of_mem (a := Instr.rcon 0) (by decide)
  | ark _ => exact List.mem_map_of_mem (a := Instr.ark 0) (by decide)
  | _ => exact List.mem_map_of_mem (by decide)

/-- The table has no row but those of the commands. -/
theorem exists_rowOf_of_mem {row : OpcodeRow} (h : row ∈ opcodeTable) : ∃ i, rowOf i = row := by
  rw [opcodeTable_eq_map_rowOf] at h
  obtain ⟨i, _, hi⟩ := List.mem_map.1 h
  exact ⟨i, hi⟩

/-- The mask of format I keeps OP. -/
theorem opField_and_immMask (w : Word) : opField (w &&& 0xFFFFFF00) = opField w := by
  rw [opField, BitVec.extractLsb'_and]
  exact BitVec.and_allOnes

/-- The mask of format I keeps MID. -/
theorem midField_and_immMask (w : Word) : midField (w &&& 0xFFFFFF00) = midField w := by
  rw [midField, BitVec.extractLsb'_and]
  exact BitVec.and_allOnes

/-- The mask of format I clears IMM8. -/
theorem append_and_immMask (op imm : Byte) :
    (op ++ 0#16 ++ imm) &&& 0xFFFFFF00 = op ++ 0#16 ++ 0#8 := by
  have hmask : (0xFFFFFF00 : Word) = BitVec.allOnes 8 ++ BitVec.allOnes 16 ++ 0#8 := rfl
  rw [hmask, BitVec.and_append, BitVec.and_append, BitVec.and_allOnes, BitVec.and_allOnes,
    BitVec.and_zero]

/-- A word that matches the row of a format-I command has its OP and a zero MID. -/
theorem fields_of_and_immMask {op : Byte} (h : w &&& 0xFFFFFF00 = op ++ 0#16 ++ 0#8) :
    opField w = op ∧ midField w = 0 := by
  obtain ⟨hop, hmid, _⟩ := Laws.CommandFields.fields_of_append op 0
  exact ⟨by rw [← opField_and_immMask, h]; exact hop,
    by rw [← midField_and_immMask, h]; exact hmid⟩

/-- The word of a command matches the row of that command. -/
theorem encode_matches_rowOf (i : Instr) :
    encode i &&& (rowOf i).mask = (rowOf i).matchWord := by
  cases i with
  | pcoef _ | rcon _ | ark _ => exact append_and_immMask _ _
  | _ => rfl

/-- A word that matches the row of a command decodes to a command of that row. -/
theorem exists_decode_of_matches {i : Instr} (h : w &&& (rowOf i).mask = (rowOf i).matchWord) :
    ∃ j, decode w = .ok j ∧ rowOf j = rowOf i := by
  cases i with
  | pcoef idx =>
    obtain ⟨hop, hmid⟩ := fields_of_and_immMask h
    exact ⟨_, decode_of_pcoef_fields hop hmid, rfl⟩
  | rcon j =>
    obtain ⟨hop, hmid⟩ := fields_of_and_immMask h
    exact ⟨_, decode_of_rcon_fields hop hmid, rfl⟩
  | ark r =>
    obtain ⟨hop, hmid⟩ := fields_of_and_immMask h
    exact ⟨_, decode_of_ark_fields hop hmid, rfl⟩
  | _ =>
    obtain rfl := BitVec.and_allOnes.symm.trans h
    exact ⟨_, decode_encode rfl, rfl⟩

/-- A word that decodes matches the row of its command. -/
theorem matches_rowOf_of_decode {i : Instr} (h : decode w = .ok i) :
    w &&& (rowOf i).mask = (rowOf i).matchWord :=
  encode_of_decode h ▸ encode_matches_rowOf i

/-- The row a word matches is the row of the command it decodes to. -/
theorem exists_decode_of_row {row : OpcodeRow} (hrow : row ∈ opcodeTable)
    (h : w &&& row.mask = row.matchWord) : ∃ j, decode w = .ok j ∧ row = rowOf j := by
  obtain ⟨i, rfl⟩ := exists_rowOf_of_mem hrow
  obtain ⟨j, hj, heq⟩ := exists_decode_of_matches h
  exact ⟨j, hj, heq.symm⟩

end

end Sys2Proof.Machine

/-! ## The statements of 30_encoding.md -/

namespace Sys2Proof.Proofs

open Sys2Proof.Machine

/-- Settles O1: a decoded command is well formed and its word is the one decoded, and decode inverts
encode on well-formed commands. -/
theorem decodeEncodeAgree : Obligations.DecodeEncodeAgree :=
  fun _ _ => ⟨fun h => ⟨wellFormed_of_decode h, encode_of_decode h⟩,
    fun ⟨hwf, hw⟩ => hw ▸ decode_encode hwf⟩

/-- Settles O2: a word matches a row exactly when it decodes to a command of that row. -/
theorem decodeFollowsOpcodeTable : Obligations.DecodeFollowsOpcodeTable := by
  intro w
  split
  case h_1 i hi =>
    refine ⟨rowOf i, rowOf_mem_opcodeTable i, rfl, matches_rowOf_of_decode hi, ?_⟩
    intro row' hrow' hmatch
    obtain ⟨j, hj, rfl⟩ := exists_decode_of_row hrow' hmatch
    cases hi.symm.trans hj
    rfl
  case h_2 why herr =>
    intro row hrow hmatch
    obtain ⟨j, hj, _⟩ := exists_decode_of_row hrow hmatch
    cases herr.symm.trans hj

/-- Settles O6: a word that decodes would match the row of its command, so this one is rejected. -/
theorem illegalWordCompletesWithIllegalCommand :
    Obligations.IllegalWordCompletesWithIllegalCommand := by
  intro s rest hb hsched hnone
  refine ⟨?_, rfl⟩
  rw [step_of_engine hsched, engineTurn_of_busy (s := { s with schedule := rest }) hb]
  rcases completeCommand_cases { s with schedule := rest } with ⟨i, hd, _⟩ | ⟨_, _, h⟩
  · exact absurd (matches_rowOf_of_decode hd) (hnone _ (rowOf_mem_opcodeTable i))
  · exact h

/-- Settles O3: the legal words are those of their commands, and each illegal word breaks one clause of
R76. -/
theorem specWordsDecode : Obligations.SpecWordsDecode := by
  have legal : ∀ {w i}, i.WellFormed ∧ encode i = w → decode w = .ok i :=
    (decodeEncodeAgree _ _).2
  exact ⟨legal (by decide), legal (by decide), legal (by decide), legal (by decide),
    legal (by decide), legal (by decide), legal (by decide), legal (by decide), legal (by decide),
    rfl, rfl, rfl⟩

end Sys2Proof.Proofs

/-! ## Rules about the polynomial helpers and commands

Degrees by `pdeg`, the coefficients of a product, the quotient of a division, and the next state of
PMOD and PCOEF: what the statements of 41_polynomial.md rest on. -/

namespace Sys2Proof.Machine

open Polynomial

/-! ### The degree -/

section
variable {a b d n : Nat}

@[simp] theorem pdeg_zero : pdeg 0 = -1 := rfl

theorem pdeg_of_ne_zero (h : n ≠ 0) : pdeg n = n.log2 := if_neg h

theorem pdeg_nonneg_iff : 0 ≤ pdeg n ↔ n ≠ 0 := by
  by_cases h : n = 0
  · simp [h]
  · simp [pdeg_of_ne_zero h, h]

/-- A polynomial of degree below `k` is one that fits in `k` bits. -/
theorem pdeg_lt_iff {k : Nat} : pdeg n < k ↔ n < 2 ^ k := by
  by_cases h : n = 0
  · subst h
    simp only [pdeg_zero, Nat.two_pow_pos, iff_true]
    omega
  · rw [pdeg_of_ne_zero h, Int.ofNat_lt, Nat.log2_lt h]

theorem pdeg_toNat_lt (w : Word) : pdeg w.toNat < 32 := pdeg_lt_iff.2 w.isLt

theorem toNat_ne_zero {w : Word} (h : w ≠ 0) : w.toNat ≠ 0 := BitVec.toNat_ne_iff_ne.2 h

/-- The remainder condition of `pmod_spec` and `pmod_unique`, in terms of degrees (R103). -/
theorem pdeg_lt_pdeg_iff (hd : d ≠ 0) : pdeg n < pdeg d ↔ n = 0 ∨ n.log2 < d.log2 := by
  rw [pdeg_of_ne_zero hd]
  by_cases h : n = 0
  · subst h
    simp only [pdeg_zero, true_or, iff_true]
    omega
  · simp [pdeg_of_ne_zero h, h]

/-! ### The product -/

/-- An XOR-reduction of bits is a sum in `ZMod 2` (R13). -/
theorem ite_foldl_xor_eq_sum (f : Nat → Bool) (n : Nat) :
    (if (List.range n).foldl (fun acc i => acc ^^ f i) false then (1 : ZMod 2) else 0) =
      ∑ i ∈ Finset.range n, if f i then 1 else 0 := by
  induction n with
  | zero => rfl
  | succ n ih =>
    rw [List.range_succ, List.foldl_append, List.foldl_cons, List.foldl_nil, Finset.sum_range_succ,
      ← ih]
    cases (List.range n).foldl (fun acc i => acc ^^ f i) false <;> cases f n <;> decide

theorem bool_eq_of_ite_eq {x y : Bool}
    (h : (if x then (1 : ZMod 2) else 0) = if y then 1 else 0) : x = y := by
  revert x y
  decide

/-- Each coefficient of a product is the XOR-reduction of R102. -/
theorem testBit_clmul (a b k : Nat) :
    (clmul a b).testBit k =
      (List.range (k + 1)).foldl (fun acc i => acc ^^ (a.testBit i && b.testBit (k - i))) false := by
  have hcoeff : (if (clmul a b).testBit k then (1 : ZMod 2) else 0) =
      ∑ i ∈ Finset.range (k + 1), if a.testBit i && b.testBit (k - i) then 1 else 0 := by
    rw [← coeff_toPoly, toPoly_clmul, coeff_mul,
      Finset.Nat.sum_antidiagonal_eq_sum_range_succ
        (fun i j => (toPoly a).coeff i * (toPoly b).coeff j)]
    simp only [coeff_toPoly, ite_and, Bool.and_eq_true, ite_mul, one_mul, zero_mul]
  exact bool_eq_of_ite_eq (hcoeff.trans (ite_foldl_xor_eq_sum _ _).symm)

theorem clmul_comm (a b : Nat) : clmul a b = clmul b a :=
  toPoly_injective (by rw [toPoly_clmul, toPoly_clmul, mul_comm])

theorem clmul_xor (a b c : Nat) : clmul a (b ^^^ c) = clmul a b ^^^ clmul a c :=
  toPoly_injective (by simp only [toPoly_clmul, toPoly_xor, mul_add])

theorem clmul_eq_zero_iff : clmul a b = 0 ↔ a = 0 ∨ b = 0 := by
  rw [← toPoly_eq_zero_iff, toPoly_clmul, mul_eq_zero, toPoly_eq_zero_iff, toPoly_eq_zero_iff]

/-- Degrees add, as (ZMod 2)[X] has no zero divisors. -/
theorem pdeg_clmul (ha : a ≠ 0) (hb : b ≠ 0) : pdeg (clmul a b) = pdeg a + pdeg b := by
  have hab : clmul a b ≠ 0 := by rw [Ne, clmul_eq_zero_iff]; tauto
  have hlog : (clmul a b).log2 = a.log2 + b.log2 := by
    rw [← natDegree_toPoly, toPoly_clmul, natDegree_mul (mt toPoly_eq_zero_iff.1 ha)
      (mt toPoly_eq_zero_iff.1 hb), natDegree_toPoly, natDegree_toPoly]
  rw [pdeg_of_ne_zero hab, pdeg_of_ne_zero ha, pdeg_of_ne_zero hb, hlog, Int.natCast_add]

/-- The product of two words has degree at most 62, so it leaves bit 63 clear (R111). -/
theorem clmul_toNat_lt (a b : Word) : clmul a.toNat b.toNat < 2 ^ 63 := by
  rw [← pdeg_lt_iff]
  by_cases h : clmul a.toNat b.toNat = 0
  · rw [h]; decide
  · obtain ⟨ha, hb⟩ := not_or.1 (mt clmul_eq_zero_iff.2 h)
    rw [pdeg_clmul ha hb]
    have := pdeg_toNat_lt a
    have := pdeg_toNat_lt b
    omega

/-- RESH and RESL together hold the low 64 bits of what they are cut from (R111). -/
theorem ofNat_shiftRight_append_ofNat (p : Nat) :
    BitVec.ofNat 32 (p >>> 32) ++ BitVec.ofNat 32 p = BitVec.ofNat 64 p := by
  apply BitVec.eq_of_getLsbD_eq
  intro i hi
  simp only [BitVec.getLsbD_append, BitVec.getLsbD_ofNat, Nat.testBit_shiftRight]
  by_cases hlt : i < 32
  · simp [hlt, hi]
  · have hlow : i - 32 < 32 := by omega
    have hsum : 32 + (i - 32) = i := by omega
    simp [hlt, hlow, hsum, hi]

/-! ### The division -/

theorem pdeg_pmod_fst_lt (a : Nat) (hd : d ≠ 0) : pdeg (pmod a d).1 < pdeg d :=
  (pdeg_lt_pdeg_iff hd).2 (pmod_spec a hd).2

/-- The division property with the machine's own operations (R103). -/
theorem eq_clmul_xor_pmod (a : Nat) (hd : d ≠ 0) :
    a = clmul (pmod a d).2 d ^^^ (pmod a d).1 :=
  toPoly_injective (by rw [toPoly_xor, toPoly_clmul]; exact (pmod_spec a hd).1)

theorem pmod_snd_eq_zero_iff (hd : d ≠ 0) : (pmod a d).2 = 0 ↔ pdeg a < pdeg d := by
  constructor
  · intro hq
    have ha : a = (pmod a d).1 := by
      rw [← Nat.zero_xor (pmod a d).1, ← clmul_eq_zero_iff.2 (.inl hq)]
      exact eq_clmul_xor_pmod a hd
    rw [ha]
    exact pdeg_pmod_fst_lt a hd
  · intro h
    have hq : pmod a d = (a, 0) := pmod_unique hd (by simp) ((pdeg_lt_pdeg_iff hd).1 h)
    rw [hq]

/-- The remainder lies below the product of quotient and divisor, which so has the dividend's degree. -/
theorem pdeg_eq_add_of_pmod_snd_ne_zero (hd : d ≠ 0) (hq : (pmod a d).2 ≠ 0) :
    pdeg a = pdeg (pmod a d).2 + pdeg d := by
  have hlow : (toPoly (pmod a d).1).degree < (toPoly (clmul (pmod a d).2 d)).degree := by
    rw [toPoly_clmul, mul_comm]
    exact (degree_lt_of_log2_lt hd (pmod_spec a hd).2).trans_le
      (degree_le_mul_left _ (mt toPoly_eq_zero_iff.1 hq))
  have hlog : a.log2 = (clmul (pmod a d).2 d).log2 := by
    rw [← natDegree_toPoly, ← natDegree_toPoly]
    conv_lhs => rw [eq_clmul_xor_pmod a hd, toPoly_xor]
    exact natDegree_eq_of_degree_eq (degree_add_eq_left_of_degree_lt hlow)
  have hqd : clmul (pmod a d).2 d ≠ 0 := by rw [Ne, clmul_eq_zero_iff]; tauto
  have ha : a ≠ 0 := by
    rintro rfl
    refine hq ((pmod_snd_eq_zero_iff hd).2 ?_)
    have := pdeg_nonneg_iff.2 hd
    rw [pdeg_zero]
    omega
  rw [← pdeg_clmul hq hd, pdeg_of_ne_zero ha, pdeg_of_ne_zero hqd, hlog]

theorem pdeg_pmod_snd_le (a : Nat) (hd : d ≠ 0) : pdeg (pmod a d).2 ≤ max 0 (pdeg a) := by
  by_cases hq : (pmod a d).2 = 0
  · rw [hq, pdeg_zero]; omega
  · have := pdeg_eq_add_of_pmod_snd_ne_zero hd hq
    have := pdeg_nonneg_iff.2 hd
    omega

/-- A product divides exactly (R115). -/
theorem pmod_clmul_self (a : Nat) (hd : d ≠ 0) : pmod (clmul a d) d = (0, a) :=
  pmod_unique hd (by simp) (.inl rfl)

/-- Division is linear: the remainders of the summands add to one below the divisor's degree (R115). -/
theorem pmod_xor (a b : Nat) (hd : d ≠ 0) :
    pmod (a ^^^ b) d = ((pmod a d).1 ^^^ (pmod b d).1, (pmod a d).2 ^^^ (pmod b d).2) := by
  obtain ⟨ha, _⟩ := pmod_spec a hd
  obtain ⟨hb, _⟩ := pmod_spec b hd
  apply pmod_unique hd
  · simp only [toPoly_xor]
    rw [ha, hb]
    ring
  · rw [← pdeg_lt_pdeg_iff hd, pdeg_of_ne_zero hd, pdeg_lt_iff]
    exact Nat.xor_lt_two_pow (pmod_lt a hd) (pmod_lt b hd)

end

/-! ### The commands -/

section
variable {s : State}

theorem exec_pmod_of_zero (h : s.opb = 0) : exec .pmod s = fail .divisionByZero s := if_pos h

theorem exec_pmod_of_ne_zero (h : s.opb ≠ 0) :
    exec .pmod s = succeed (writeResult (BitVec.ofNat 32 (pmod s.opa.toNat s.opb.toNat).1)
      (BitVec.ofNat 32 (pmod s.opa.toNat s.opb.toNat).2) s) :=
  if_neg h

/-- RESL and RESH of PMOD lose no bit: both have degree below 32 (R112). -/
theorem pmod_toNat_lt (a : Word) {d : Word} (hd : d ≠ 0) :
    (pmod a.toNat d.toNat).1 < 2 ^ 32 ∧ (pmod a.toNat d.toNat).2 < 2 ^ 32 := by
  have ha := pdeg_toNat_lt a
  have hd32 := pdeg_toNat_lt d
  have hr := pdeg_pmod_fst_lt a.toNat (toNat_ne_zero hd)
  have hq := pdeg_pmod_snd_le a.toNat (toNat_ne_zero hd)
  rw [← pdeg_lt_iff, ← pdeg_lt_iff]
  omega

theorem exec_pcoef_of_neg {idx : Int} (h : idx < 0) :
    exec (.pcoef idx) s = fail .invalidIndex s := if_pos h

/-- A PCOEF with a natural index reads that bit of OPA (R114). -/
theorem exec_pcoef_natCast (n : Nat) :
    exec (.pcoef n) s =
      succeed (writeResult ((BitVec.ofBool (s.opa.getLsbD n)).setWidth 32) 0 s) := by
  have hbit : coeff s.opa.toNat n = s.opa.getLsbD n := rfl
  rw [exec, execPcoef, if_neg (Int.natCast_nonneg n).not_gt, Int.toNat_natCast, hbit]
  cases s.opa.getLsbD n <;> rfl

/-- The degree of a non-zero word is held in RESL as it is (R113). -/
theorem toNat_ofInt_pdeg {w : Word} (h : w ≠ 0) :
    (BitVec.ofInt 32 (pdeg w.toNat)).toNat = w.toNat.log2 ∧ w.toNat.log2 < 32 := by
  have hlt : w.toNat.log2 < 32 := (Nat.log2_lt (toNat_ne_zero h)).2 w.isLt
  refine ⟨?_, hlt⟩
  rw [pdeg_of_ne_zero (toNat_ne_zero h), BitVec.ofInt_natCast, BitVec.toNat_ofNat]
  exact Nat.mod_eq_of_lt (by omega)

end

end Sys2Proof.Machine

/-! ## The statements of 41_polynomial.md -/

namespace Sys2Proof.Proofs

open Sys2Proof.Machine

/-- Settles O15: RESH and RESL hold the product of the polynomials, whose degree is at most 62. -/
theorem pmulIsCarrylessProduct : Obligations.PmulIsCarrylessProduct := by
  refine ⟨decode_encode (i := .pmul) rfl, fun s => ⟨_, _, rfl, ?_⟩⟩
  have hlt := clmul_toNat_lt s.opa s.opb
  rw [ofNat_shiftRight_append_ofNat]
  refine ⟨?_, ?_, ?_⟩
  · rw [BitVec.getLsbD_ofNat, Nat.testBit_lt_two_pow hlt, Bool.and_false]
  · intro k hk
    rw [BitVec.getLsbD_ofNat, decide_eq_true hk, Bool.true_and]
    exact testBit_clmul _ _ k
  · intro ha hb
    rw [BitVec.toNat_ofNat, Nat.mod_eq_of_lt (by omega)]
    exact pdeg_clmul (toNat_ne_zero ha) (toNat_ne_zero hb)

/-- Settles O16: both results fit their registers, so they are those of the division. -/
theorem pmodDivides : Obligations.PmodDivides := by
  refine ⟨decode_encode (i := .pmod) rfl, fun s => exec_pmod_of_zero, fun s h => ?_⟩
  refine ⟨_, _, exec_pmod_of_ne_zero h, ?_⟩
  have hd := toNat_ne_zero h
  obtain ⟨hr, hq⟩ := pmod_toNat_lt s.opa h
  rw [BitVec.toNat_ofNat, BitVec.toNat_ofNat, Nat.mod_eq_of_lt hr, Nat.mod_eq_of_lt hq]
  refine ⟨eq_clmul_xor_pmod _ hd, pdeg_pmod_fst_lt _ hd, ?_, ?_⟩
  · intro hle
    have hq0 := mt (pmod_snd_eq_zero_iff hd).1 hle.not_gt
    exact eq_sub_of_add_eq (pdeg_eq_add_of_pmod_snd_ne_zero hd hq0).symm
  · intro hlt
    rw [(pmod_snd_eq_zero_iff hd).2 hlt]
    rfl

/-- Settles O17: the degree of a non-zero word is the `log2` of its value. -/
theorem pdegIsHighestSetBit : Obligations.PdegIsHighestSetBit := by
  refine ⟨decode_encode (i := .pdeg) rfl, fun s => ⟨_, rfl, ?_, ?_⟩⟩
  · intro h
    rw [h]
    rfl
  · intro h
    obtain ⟨hn, hlt⟩ := toNat_ofInt_pdeg h
    rw [hn]
    exact ⟨hlt, Nat.testBit_log2 (toNat_ne_zero h), fun _ => testBit_eq_false_of_log2_lt⟩

/-- Settles O18: the sign of the index decides between the failure and the read, and OPA has no bit
above 31. -/
theorem pcoefReadsTerm : Obligations.PcoefReadsTerm := by
  refine ⟨fun imm => ?_, fun s idx => exec_pcoef_of_neg, fun s n _ => exec_pcoef_natCast n,
    fun s n h => ?_⟩
  · obtain ⟨hop, hmid, himm⟩ := Laws.CommandFields.fields_of_append 0x14#8 imm
    rw [decode_of_pcoef_fields hop hmid, himm, BitVec.toInt_signExtend_of_le (by decide)]
  · rw [exec_pcoef_natCast, BitVec.getLsbD_of_ge _ n h]
    rfl

/-- Settles O19: the laws of the ring (ZMod 2)[X] and of division in it. -/
theorem polynomialLaws : Obligations.PolynomialLaws := by
  refine ⟨fun a => BitVec.xor_self, fun a b => clmul_comm _ _, fun a b c => ?_,
    fun a d hd => pmod_clmul_self _ (toNat_ne_zero hd), fun a b d hd => ?_, by decide, pdeg_zero⟩
  · rw [BitVec.toNat_xor, clmul_xor]
  · rw [BitVec.toNat_xor, pmod_xor _ _ (toNat_ne_zero hd)]

/-- Settles O14: PADD writes the XOR of OPA and OPB, and completes. -/
theorem paddIsXor : Obligations.PaddIsXor :=
  ⟨decode_encode (i := .padd) rfl, fun _ => rfl⟩

end Sys2Proof.Proofs

/-! ## Rules about the field helpers and commands

The ring laws of `gmul`, its doubling rule, the low bytes of the operands, and what PMUL and PMOD write
for bytes: what the statements of 42_field.md rest on. -/

namespace Sys2Proof.Machine

open Polynomial

/-! ### The ring laws of the product -/

section
variable (a b c : Byte)

theorem gmul_comm : gmul a b = gmul b a := by rw [gmul, clmul_comm, ← gmul]

/-- The product distributes, as both multiplication and reduction are linear. -/
theorem gmul_xor : gmul a (b ^^^ c) = gmul a b ^^^ gmul a c :=
  byte_ext_toPoly (by simp only [toPoly_gmul, toPoly_byte_xor, mul_add, add_modByMonic])

/-- Reducing the inner product first does not change the outer one. -/
theorem toPoly_gmul_gmul : toPoly (gmul (gmul a b) c).toNat =
    (toPoly a.toNat * toPoly b.toNat * toPoly c.toNat) %ₘ modulusPoly := by
  rw [toPoly_gmul, toPoly_gmul, mul_modByMonic (_ * _), toPoly_byte_mod]

theorem gmul_assoc : gmul (gmul a b) c = gmul a (gmul b c) :=
  byte_ext_toPoly (by rw [gmul_comm a (gmul b c), toPoly_gmul_gmul, toPoly_gmul_gmul, mul_rotate])

@[simp] theorem gmul_one : gmul a 1 = a := by
  have hone : toPoly (1 : Byte).toNat = 1 := toPoly_one
  exact byte_ext_toPoly (by rw [toPoly_gmul, hone, mul_one, toPoly_byte_mod])

@[simp] theorem gmul_zero : gmul a 0 = 0 := by
  have hzero : toPoly (0 : Byte).toNat = 0 := toPoly_zero
  exact byte_ext_toPoly (by rw [toPoly_gmul, hzero, mul_zero, zero_modByMonic])

end

/-! ### The inverse -/

section
variable {a b : Byte}

/-- Multiplication by the inverse undoes multiplication by a non-zero byte. -/
theorem gmul_ginv_gmul (ha : a ≠ 0) (b : Byte) : gmul (ginv a) (gmul a b) = b := by
  rw [← gmul_assoc, gmul_comm (ginv a), gmul_ginv ha, gmul_comm, gmul_one]

/-- A non-zero byte has no inverse but `ginv` (R132). -/
theorem eq_ginv_of_gmul_eq_one (ha : a ≠ 0) (h : gmul a b = 1) : b = ginv a := by
  rw [← gmul_ginv_gmul ha b, h, gmul_one]

theorem ginv_ne_zero (ha : a ≠ 0) : ginv a ≠ 0 := by
  intro h
  have hone := gmul_ginv ha
  rw [h, gmul_zero] at hone
  exact absurd hone (by decide)

end

/-! ### Multiplication by 0x02 -/

theorem clmul_one_shiftLeft (a n : Nat) : clmul a (1 <<< n) = a <<< n :=
  toPoly_injective (by simp)

section
variable {a d : Nat}

/-- A polynomial below the divisor's degree is its own remainder. -/
theorem pmod_of_pdeg_lt (hd : d ≠ 0) (h : pdeg a < pdeg d) : pmod a d = (a, 0) :=
  pmod_unique hd (by simp) ((pdeg_lt_pdeg_iff hd).1 h)

/-- A polynomial of the divisor's degree is reduced by one subtraction, as both lead with 1. -/
theorem pmod_of_log2_eq (ha : a ≠ 0) (hd : d ≠ 0) (h : a.log2 = d.log2) :
    pmod a d = (a ^^^ d, 1) := by
  apply pmod_unique hd
  · have htwo : toPoly d + toPoly d = 0 := CharTwo.add_self_eq_zero _
    rw [toPoly_xor, toPoly_one]
    linear_combination -htwo
  · have hpass := log2_pass_lt ha hd h.ge
    rw [h, Nat.sub_self, Nat.shiftLeft_zero] at hpass
    exact or_iff_not_imp_left.2 hpass

end

/-- Doubling shifts, and subtracts the modulus when the shift reaches degree 8 (R131, R143). -/
theorem gmul_two (a : Byte) : gmul a 0x02 = (a <<< 1) ^^^ (if a.getLsbD 7 then 0x1B else 0) := by
  have hprod : clmul a.toNat 2 = a.toNat <<< 1 := clmul_one_shiftLeft _ 1
  have htop : a.getLsbD 7 = decide (128 ≤ a.toNat) := BitVec.getLsbD_last a
  have hdouble : a.toNat <<< 1 = a.toNat * 2 := Nat.shiftLeft_eq _ 1
  have hlow : BitVec.ofNat 8 (a.toNat <<< 1) = a <<< 1 := rfl
  have ha := a.isLt
  have hreduce : gmul a 0x02 = BitVec.ofNat 8 (pmod (a.toNat <<< 1) fieldModulus).1 := by
    rw [← hprod]; rfl
  by_cases h : 128 ≤ a.toNat
  · have hlog : (a.toNat <<< 1).log2 = fieldModulus.log2 := by
      rw [log2_fieldModulus, Nat.log2_eq_iff (by omega)]
      omega
    rw [hreduce, pmod_of_log2_eq (by omega) (by decide) hlog, BitVec.ofNat_xor, hlow, htop,
      decide_eq_true h]
    rfl
  · have hdeg : pdeg (a.toNat <<< 1) < pdeg fieldModulus := pdeg_lt_iff (k := 8) |>.2 (by omega)
    rw [hreduce, pmod_of_pdeg_lt (by decide) hdeg, hlow, htop, decide_eq_false h]
    exact BitVec.xor_zero.symm

/-! ### The operand bytes, and bytes as operands of PMUL and PMOD -/

section
variable {s : State} {hi : BitVec 24} {a b : Byte}

/-- Only OPA[7:0] is an operand (R25). -/
theorem opaByte_of_append (h : s.opa = hi ++ a) : opaByte s = a := by
  rw [opaByte, h, BitVec.extractLsb'_append_eq_right]

/-- Only OPB[7:0] is an operand (R26). -/
theorem opbByte_of_append (h : s.opb = hi ++ b) : opbByte s = b := by
  rw [opbByte, h, BitVec.extractLsb'_append_eq_right]

/-- The product of polynomials of `m` and `n` bits fits in `m + n` bits. -/
theorem clmul_lt_two_pow {x y m n : Nat} (hx : x < 2 ^ m) (hy : y < 2 ^ n) :
    clmul x y < 2 ^ (m + n) := by
  by_cases h : clmul x y = 0
  · rw [h]; exact Nat.two_pow_pos _
  · obtain ⟨hx0, hy0⟩ := not_or.1 (mt clmul_eq_zero_iff.2 h)
    rw [← pdeg_lt_iff] at hx hy ⊢
    rw [pdeg_clmul hx0 hy0]
    omega

/-- PMUL of two bytes leaves their product in RESL (R111). -/
theorem toNat_ofNat_clmul_setWidth (a b : Byte) :
    (BitVec.ofNat 32 (clmul (a.setWidth 32).toNat (b.setWidth 32).toNat)).toNat =
      clmul a.toNat b.toNat := by
  have hlt : clmul a.toNat b.toNat < 2 ^ (8 + 8) := clmul_lt_two_pow a.isLt b.isLt
  rw [BitVec.toNat_setWidth_of_le (by decide), BitVec.toNat_setWidth_of_le (by decide),
    BitVec.toNat_ofNat, Nat.mod_eq_of_lt (by omega)]

/-- PMOD by the field polynomial leaves the field product in RESL when OPA holds the product of two
bytes (R112, R141). -/
theorem exec_pmod_of_byte_product (hopa : s.opa.toNat = clmul a.toNat b.toNat)
    (hopb : s.opb = 0x11B) : exec .pmod s = succeed (writeResult ((gmul a b).setWidth 32)
      (BitVec.ofNat 32 (pmod s.opa.toNat s.opb.toNat).2) s) := by
  have hmod : s.opb.toNat = fieldModulus := congrArg BitVec.toNat hopb
  have hne : s.opb ≠ 0 := by rw [hopb]; decide
  rw [exec_pmod_of_ne_zero hne, hopa, hmod, ← toNat_gmul, BitVec.ofNat_toNat]

/-- A byte result has no bit above 7. -/
theorem toNat_setWidth_byte_lt (a : Byte) : (a.setWidth 32).toNat < 256 := by
  rw [BitVec.toNat_setWidth_of_le (by decide)]
  exact a.isLt

end

end Sys2Proof.Machine

/-! ## The statements of 42_field.md -/

namespace Sys2Proof.Proofs

open Sys2Proof.Machine

/-- Settles O21: the product of two bytes fits RESL, so PMOD reduces all of it, by the same division
as `gmul`. -/
theorem gmulIsPmulThenPmod : Obligations.GmulIsPmulThenPmod := by
  refine ⟨decode_encode (i := .gmul) rfl, fun s hiA hiB a b ha hb => ?_⟩
  have hprod := toNat_ofNat_clmul_setWidth a b
  refine ⟨_, _, rfl, exec_pmod_of_byte_product hprod rfl, toNat_setWidth_byte_lt (gmul a b), ?_⟩
  rw [exec, execGmul, opaByte_of_append ha, opbByte_of_append hb]
  rfl

/-- Settles O22: the inverse is `ginv`, which R132 extends to 0 and R156 tabulates. -/
theorem ginvIsTheInverse : Obligations.GinvIsTheInverse := by
  refine ⟨decode_encode (i := .ginv) rfl, fun s hi h => ?_, fun s hi a h ha => ⟨ginv a, ?_, ?_⟩⟩
  · rw [exec, execGinv, opaByte_of_append h, ginv_zero]
    rfl
  · rw [exec, execGinv, opaByte_of_append h]
    rfl
  · exact ⟨ginv_ne_zero ha, gmul_ginv ha, fun _ => eq_ginv_of_gmul_eq_one ha, ginv_eq_table a⟩

/-- Settles O23: bytes are the residues of (ZMod 2)[X] modulo the field polynomial, and `ginv` inverts
the non-zero ones. -/
theorem fieldLaws : Obligations.FieldLaws :=
  ⟨BitVec.xor_comm, fun _ => BitVec.xor_self, gmul_comm, fun _ => gmul_ginv, gmul_xor, gmul_assoc,
    fun a => ⟨gmul_one a, gmul_zero a, BitVec.xor_zero⟩, fun a b => (toNat_gmul a b).symm, gmul_two⟩

/-- Settles O20: GADD takes the low bytes of OPA and OPB, and completes. -/
theorem gaddIsByteXor : Obligations.GaddIsByteXor := by
  refine ⟨decode_encode (i := .gadd) rfl, fun s hiA hiB a b ha hb => ?_⟩
  rw [exec, execGadd, opaByte_of_append ha, opbByte_of_append hb]
  rfl

end Sys2Proof.Proofs

/-! ## Rules about the S-box helpers and commands

The affine transforms bit by bit, the pairs of helpers that undo each other, and what a command of one
operand byte does: what the statements of 43_sbox.md rest on. -/

namespace Sys2Proof.Machine

open Sys2Proof.Safety

/-! ### The affine transforms -/

section
variable (a b : Byte) {m n : Nat}

theorem rotrByte_xor (hn : n < 8) :
    rotrByte (a ^^^ b) n = rotrByte a n ^^^ rotrByte b n := by
  apply BitVec.eq_of_getLsbD_eq
  intro i hi
  simp only [BitVec.getLsbD_xor, getLsbD_rotrByte _ hn hi]

theorem rotrByte_rotrByte (hm : m < 8) (hn : n < 8) :
    rotrByte (rotrByte b m) n = rotrByte b ((m + n) % 8) := by
  apply BitVec.eq_of_getLsbD_eq
  intro i hi
  rw [getLsbD_rotrByte _ hn hi, getLsbD_rotrByte _ hm (Nat.mod_lt _ (by decide)),
    getLsbD_rotrByte _ (Nat.mod_lt _ (by decide)) hi]
  congr 1
  omega

@[simp] theorem rotrByte_zero : rotrByte b 0 = b := by
  apply BitVec.eq_of_getLsbD_eq
  intro i hi
  rw [getLsbD_rotrByte b (by decide) hi, Nat.add_zero, Nat.mod_eq_of_lt hi]

/-- The bit formula of R150. -/
theorem getLsbD_aff {i : Nat} (hi : i < 8) : (aff b).getLsbD i =
    (b.getLsbD i ^^ b.getLsbD ((i + 4) % 8) ^^ b.getLsbD ((i + 5) % 8) ^^
      b.getLsbD ((i + 6) % 8) ^^ b.getLsbD ((i + 7) % 8) ^^ (0x63#8).getLsbD i) := by
  simp only [aff, BitVec.getLsbD_xor, getLsbD_rotrByte, hi, Nat.reduceLT, BitVec.ofNat_eq_ofNat]

/-- The bit formula of R151. -/
theorem getLsbD_iaff {i : Nat} (hi : i < 8) : (iaff b).getLsbD i =
    (b.getLsbD ((i + 2) % 8) ^^ b.getLsbD ((i + 5) % 8) ^^ b.getLsbD ((i + 7) % 8) ^^
      (0x05#8).getLsbD i) := by
  simp only [iaff, BitVec.getLsbD_xor, getLsbD_rotrByte, hi, Nat.reduceLT, BitVec.ofNat_eq_ofNat]

/-- The composition adds `b` once and each of its seven proper rotations twice, and the constants
cancel. -/
theorem iaff_aff : iaff (aff b) = b := by
  let r := rotrByte b
  have hconst : rotrByte 0x63 2 ^^^ rotrByte 0x63 5 ^^^ rotrByte 0x63 7 ^^^ 0x05 = 0#8 := by decide
  calc iaff (aff b)
      = b ^^^ (r 1 ^^^ r 1) ^^^ (r 2 ^^^ r 2) ^^^ (r 3 ^^^ r 3) ^^^ (r 4 ^^^ r 4) ^^^
          (r 5 ^^^ r 5) ^^^ (r 6 ^^^ r 6) ^^^ (r 7 ^^^ r 7) ^^^
          (rotrByte 0x63 2 ^^^ rotrByte 0x63 5 ^^^ rotrByte 0x63 7 ^^^ 0x05) := by
        simp only [iaff, aff, rotrByte_xor, rotrByte_rotrByte, Nat.reduceLT, Nat.reduceAdd,
          Nat.reduceMod, rotrByte_zero, r]
        ac_rfl
    _ = b := by simp only [BitVec.xor_self, BitVec.xor_zero, hconst]

/-- `aff` is injective on a finite type, so its left inverse is its inverse. -/
theorem aff_iaff : aff (iaff b) = b := by
  have hinj : Function.Injective aff := Function.LeftInverse.injective iaff_aff
  obtain ⟨a, rfl⟩ := Finite.surjective_of_injective hinj b
  rw [iaff_aff]

/-! ### The S-box and its inverse -/

theorem ginv_ginv : ginv (ginv b) = b := by
  by_cases hb : b = 0
  · rw [hb, ginv_zero, ginv_zero]
  · have hone : gmul (ginv b) b = 1 := by rw [gmul_comm, gmul_ginv hb]
    exact (eq_ginv_of_gmul_eq_one (ginv_ne_zero hb) hone).symm

@[simp] theorem isbox_sbox : isbox (sbox b) = b := by rw [isbox, sbox, iaff_aff, ginv_ginv]

@[simp] theorem sbox_isbox : sbox (isbox b) = b := by rw [isbox, sbox, ginv_ginv, aff_iaff]

/-- The forward table has no fixed point (R160). -/
theorem sboxTable_ne_self : ∀ b : Byte, Tables.sboxTable.getD b.toNat 0 ≠ b := by decide +kernel

end

/-! ### Commands of one operand byte -/

section
variable {s : State} {b : Byte}

/-- A command that writes `f` of OPA[7:0] completes with `f` of the low byte, whatever stands above it
(R25, R27). -/
theorem succeed_writeByteResult_opaByte (f : Byte → Byte) {hi : BitVec 24} (h : s.opa = hi ++ b) :
    succeed (writeByteResult (f (opaByte s)) s) =
      .next (succeeded { s with resl := (f b).setWidth 32, resh := 0 }) := by
  rw [opaByte_of_append h]
  rfl

end

end Sys2Proof.Machine

/-! ## The statements of 43_sbox.md -/

namespace Sys2Proof.Proofs

open Sys2Proof.Machine

/-- Settles O24: SBOX writes `sbox`, which is the forward table. -/
theorem sboxIsTheTable : Obligations.SboxIsTheTable := by
  refine ⟨decode_encode (i := .sbox) rfl, fun s hi b h => ⟨?_, sboxTable_ne_self b⟩⟩
  rw [← sbox_eq_table]
  exact succeed_writeByteResult_opaByte sbox h

/-- Settles O25: ISBOX writes `isbox`, which is the inverse table and undoes `sbox`. -/
theorem isboxIsTheTable : Obligations.IsboxIsTheTable := by
  refine ⟨decode_encode (i := .isbox) rfl, fun s hi b h => ?_⟩
  rw [← sbox_eq_table, ← isbox_eq_table, ← isbox_eq_table]
  exact ⟨succeed_writeByteResult_opaByte isbox h, isbox_sbox b⟩

/-- Settles O26: AFF and IAFF write `aff` and `iaff`, which the bit formulas give. -/
theorem affineTransformsBitByBit : Obligations.AffineTransformsBitByBit :=
  ⟨decode_encode (i := .aff) rfl, decode_encode (i := .iaff) rfl,
    fun _ _ b h => ⟨aff b, succeed_writeByteResult_opaByte aff h, fun _ => getLsbD_aff b⟩,
    fun _ _ b h => ⟨iaff b, succeed_writeByteResult_opaByte iaff h, fun _ => getLsbD_iaff b⟩,
    fun b => ⟨iaff_aff b, aff_iaff b⟩⟩

/-- Settles O27: ISBOX finds in OPA the zero-extended byte that SBOX wrote to RESL, and `isbox` is the
two-sided inverse of `sbox`. -/
theorem sboxRoundTrip : Obligations.SboxRoundTrip := by
  refine ⟨fun s b h => ?_, ?_, ?_⟩
  · have hpad (c : Byte) : c.setWidth 32 = 0#24 ++ c := BitVec.setWidth_eq_append (by decide)
    refine ⟨_, _, succeed_writeByteResult_opaByte sbox (h.trans (hpad b)),
      succeed_writeByteResult_opaByte isbox (hpad (sbox b)), ?_⟩
    rw [isbox_sbox]
  · exact Function.bijective_iff_has_inverse.2 ⟨isbox, isbox_sbox, sbox_isbox⟩
  · rw [sbox_eq_table, sbox_eq_table]
    decide

end Sys2Proof.Proofs

/-! ## Rules about the key-schedule helpers and commands

RotWord and SubWord byte by byte, the period of the powers of x, the next states of RCON and KEXP, and
the round-key RAM after a KEXP: what the statements of 44_key_schedule.md rest on. -/

namespace Sys2Proof.Machine

open Sys2Proof.Tables

/-! ### RotWord and SubWord -/

section
variable (b0 b1 b2 b3 : Byte)

/-- RotWord moves byte `k + 1` to byte `k` (R170). -/
theorem rotw_wordOf : rotw (wordOf b0 b1 b2 b3) = wordOf b1 b2 b3 b0 := by
  apply BitVec.eq_of_getLsbD_eq
  intro i hi
  rw [rotw, BitVec.getLsbD_rotateLeft, getLsbD_wordOf, getLsbD_wordOf, getLsbD_wordOf]
  by_cases h8 : i < 8
  · have h8' : ¬ 24 + i < 8 := by omega
    have h16' : ¬ 24 + i < 16 := by omega
    simp [h8, h8', h16']
  · have h16 : i - 8 < 8 ↔ i < 16 := by omega
    have h24 : i - 8 < 16 ↔ i < 24 := by omega
    have h32 : i - 8 < 24 := by omega
    simp [h8, hi, h16, h24, h32, Nat.sub_sub]

/-- SubWord replaces each byte by its entry in the forward table (R171). -/
theorem subw_wordOf : subw (wordOf b0 b1 b2 b3) =
    wordOf (sboxTable.getD b0.toNat 0) (sboxTable.getD b1.toNat 0)
      (sboxTable.getD b2.toNat 0) (sboxTable.getD b3.toNat 0) := by
  obtain ⟨h0, h1, h2, h3⟩ := byteOf_wordOf b0 b1 b2 b3
  simp only [subw, wordOfBytes, h0, h1, h2, h3, sbox_eq_table]

end

/-! ### The round constants -/

/-- x^51 is 1, so the powers of x repeat with period 51 (R172). -/
theorem xpow_add_period (n : Nat) : xpow (n + 51) = xpow n := by
  induction n with
  | zero => decide +kernel
  | succ n ih => rw [Nat.succ_add, xpow, ih, xpow]

theorem exec_rcon_zero (s : State) : exec (.rcon 0) s = fail .invalidIndex s := rfl

theorem exec_rcon_of_pos (s : State) {j : Nat} (h : 1 ≤ j) :
    exec (.rcon j) s = succeed (writeResult (rcon j) 0 s) := if_neg (Nat.ne_of_gt h)

/-! ### KEXP -/

/-- KEXP with any other key length fails (R173, R183). -/
theorem execKexp_of_no_keySize {s : State} (h : keySizeOf s.keylen = none) :
    execKexp s = fail .invalidKeyLength s := by
  simp only [execKexp, h]

/-- What word `i` of the schedule adds to the word `Nk` before it, `prev` being word `i - 1` (R174). -/
def keyWordMix (nk i : Nat) (prev : Word) : Word :=
  if i % nk = 0 then subw (rotw prev) ^^^ rcon (i / nk)
  else if 6 < nk ∧ i % nk = 4 then subw prev
  else prev

theorem nextKeyWord_of_length {nk i : Nat} {w : List Word} (h : w.length = i) :
    nextKeyWord nk w = w.getD (i - nk) 0 ^^^ keyWordMix nk i (w.getD (i - 1) 0) := by
  subst h
  rfl

section
variable {key : List Word} {k : KeySize} {i : Nat}

/-- Each word of the schedule above the key follows the recurrence of R174. -/
theorem getD_keyexp (hk : key.length = k.nk) (hlo : k.nk ≤ i) (hi : i < 4 * (k.nr + 1)) :
    (keyexp key k.nk k.nr).getD i 0 =
      (keyexp key k.nk k.nr).getD (i - k.nk) 0 ^^^
        keyWordMix k.nk i ((keyexp key k.nk k.nr).getD (i - 1) 0) := by
  have hpos := k.nk_pos
  have hnext := extendKey_next k.nk (4 * (k.nr + 1) - k.nk) key (m := i - k.nk) (by omega)
  have hearlier : ∀ j < i, (extendKey k.nk (i - k.nk) key).getD j 0 =
      (keyexp key k.nk k.nr).getD j 0 := by
    intro j hj
    rw [List.getD_eq_getElem?_getD, List.getD_eq_getElem?_getD, keyexp,
      extendKey_prefix k.nk (n := 4 * (k.nr + 1) - k.nk) (by omega) key (by omega)]
  rw [hk, Nat.add_sub_cancel' hlo, ← keyexp] at hnext
  rw [List.getD_eq_getElem?_getD, hnext, Option.getD_some,
    nextKeyWord_of_length (i := i) (by rw [length_extendKey]; omega), hearlier _ (by omega),
    hearlier _ (by omega)]

end

section
variable {k : KeySize} {i : Nat} (s : State)

/-- The RAM after KEXP begins with the key words (R183). -/
theorem writeSchedule_rk_getElem?_of_lt (hi : i < k.nk) :
    (writeSchedule k s).rk[i]? = s.key[i]? := by
  have htake : (writeSchedule k s).rk.toList.take k.nk = s.key.toList.take k.nk :=
    take_scheduleRam_keyexp (length_keyWords s k)
  have hword := congrArg (·[i]?) htake
  simpa [List.getElem?_take, hi] using hword

/-- The RAM after KEXP follows the recurrence up to the end of the schedule (R174, R183). -/
theorem rkWord_writeSchedule (hlo : k.nk ≤ i) (hi : i < 4 * (k.nr + 1)) :
    rkWord (writeSchedule k s).rk i = rkWord (writeSchedule k s).rk (i - k.nk) ^^^
      keyWordMix k.nk i (rkWord (writeSchedule k s).rk (i - 1)) := by
  have hw := k.words_le
  have hread : ∀ j ≤ i, rkWord (writeSchedule k s).rk j =
      (keyexp (keyWords s k) k.nk k.nr).getD j 0 := fun j hj =>
    (rkWord_scheduleRam _ _ (by omega)).trans (if_pos (by omega))
  rw [hread i le_rfl, hread _ (Nat.sub_le _ _), hread _ (Nat.sub_le _ _)]
  exact getD_keyexp (length_keyWords s k) hlo hi

/-- The RAM above the schedule is 0 (R183). -/
theorem writeSchedule_rk_getElem?_of_ge (hlo : 4 * (k.nr + 1) ≤ i) (hi : i < 60) :
    (writeSchedule k s).rk[i]? = some 0 := by
  simp [writeSchedule, scheduleRam, hi, hlo]

end

end Sys2Proof.Machine

/-! ## The statements of 44_key_schedule.md -/

namespace Sys2Proof.Proofs

open Sys2Proof.Machine

/-- Settles O31: a legal length picks a key size, whose schedule KEXP writes; any other fails. -/
theorem kexpExpandsTheKey : Obligations.KexpExpandsTheKey := by
  refine ⟨decode_encode (i := .kexp) rfl, fun s h16 h24 h32 => ?_, fun s kl k nk nr hmem hkl => ?_⟩
  · exact execKexp_of_no_keySize ((keySizeOf_eq_none_iff _).2 ⟨h16, h24, h32⟩)
  · obtain ⟨hsize, rfl, rfl⟩ : keySizeOf s.keylen = some k ∧ k.nk = nk ∧ k.nr = nr := by
      simp only [List.mem_cons, Prod.mk.injEq, List.not_mem_nil, or_false] at hmem
      rcases hmem with ⟨rfl, rfl, rfl, rfl⟩ | ⟨rfl, rfl, rfl, rfl⟩ | ⟨rfl, rfl, rfl, rfl⟩ <;>
        rw [hkl] <;> decide
    exact ⟨_, execKexp_of_keySize hsize, rfl, rfl, fun i => writeSchedule_rk_getElem?_of_lt s,
      fun i => rkWord_writeSchedule s, fun i => writeSchedule_rk_getElem?_of_ge s⟩

/-- Settles O29: SUBW writes SubWord of OPA. -/
theorem subwSubstitutesBytes : Obligations.SubwSubstitutesBytes := by
  refine ⟨decode_encode (i := .subw) rfl, fun s a0 a1 a2 a3 h => ?_⟩
  rw [exec, execSubw, ← subw_wordOf, ← h]
  rfl

/-- Settles O30: the constant of `j` is x^(j-1), and x^51 is 1. -/
theorem rconIsPowersOfX : Obligations.RconIsPowersOfX := by
  refine ⟨fun imm => ?_, exec_rcon_zero, fun j => xpow (j - 1), rfl, fun j hj => ?_,
    fun j hj => ?_, by decide, fun s _ => exec_rcon_of_pos s⟩
  · obtain ⟨hop, hmid, himm⟩ := Laws.CommandFields.fields_of_append 0x42#8 imm
    rw [decode_of_rcon_fields hop hmid, himm]
  · obtain ⟨n, rfl⟩ := Nat.exists_eq_add_of_le' hj
    rfl
  · obtain ⟨n, rfl⟩ := Nat.exists_eq_add_of_le' hj
    exact xpow_add_period n

/-- Settles O28: a word is made of four bytes, which four rotations bring back to their places. -/
theorem rotwRotatesBytes : Obligations.RotwRotatesBytes := by
  refine ⟨decode_encode (i := .rotw) rfl, fun s a0 a1 a2 a3 h => ?_, fun w => ?_⟩
  · rw [exec, execRotw, ← rotw_wordOf, ← h]
    rfl
  · rw [← wordOf_byteOf w, rotw_wordOf, rotw_wordOf, rotw_wordOf, rotw_wordOf]

end Sys2Proof.Proofs

/-! ## Rules about the round transforms and their commands

The transforms byte by byte, each inverse with its transform, what each command writes, and the block
commands as runs of the single ones: what the statements of 45_round_transform.md rest on. -/

namespace Sys2Proof.Machine

open Sys2Proof.Safety

/-! ### The transforms byte by byte -/

section
variable (st : Vector Word 4) (r c : Fin 4)

@[simp] theorem grid_subBytes : grid (subBytes st) r c = sbox (grid st r c) := grid_ofGrid _ r c

@[simp] theorem grid_invSubBytes : grid (invSubBytes st) r c = isbox (grid st r c) :=
  grid_ofGrid _ r c

@[simp] theorem grid_shiftRows : grid (shiftRows st) r c = grid st r (c + r) := grid_ofGrid _ r c

@[simp] theorem grid_invShiftRows : grid (invShiftRows st) r c = grid st r (c - r) :=
  grid_ofGrid _ r c

@[simp] theorem grid_mixColumns :
    grid (mixColumns st) r c = mixByte mixCoeff (fun k => grid st k c) r := grid_ofGrid _ r c

@[simp] theorem grid_invMixColumns :
    grid (invMixColumns st) r c = mixByte invMixCoeff (fun k => grid st k c) r := grid_ofGrid _ r c

end

/-! ### The circulant matrices -/

theorem xor_gmul (a b c : Byte) : gmul (a ^^^ b) c = gmul a c ^^^ gmul b c := by
  rw [gmul_comm, gmul_xor, gmul_comm c, gmul_comm c]

section
variable (m m' col : Fin 4 → Byte) (r : Fin 4)

/-- The product of two circulant matrices is circulant: its first row is that of the second matrix,
read backwards from each index and multiplied by the first. -/
theorem mixByte_mixByte :
    mixByte m' (mixByte m col) r = mixByte (fun d => mixByte m' (fun k => m (d - k)) 0) col r := by
  rcases fin4_cases r with rfl | rfl | rfl | rfl <;>
  · simp only [mixByte, gmul_xor, xor_gmul, gmul_assoc, Fin.isValue, Fin.reduceSub]
    ac_rfl

/-- The circulant matrix with first row `1, 0, 0, 0` is the identity. -/
theorem mixByte_one : mixByte (fun d => if d = 0 then 1 else 0) col r = col r := by
  rcases fin4_cases r with rfl | rfl | rfl | rfl <;>
  · simp only [mixByte, gmul_comm _ (col _), Fin.isValue, Fin.reduceSub, Fin.reduceEq, if_true,
      if_false, gmul_one, gmul_zero]
    simp

/-- Two circulant matrices whose product has first row `1, 0, 0, 0` undo each other. -/
theorem mixByte_mixByte_of_inverse
    (h : ∀ d, mixByte m' (fun k => m (d - k)) 0 = if d = 0 then 1 else 0) :
    mixByte m' (mixByte m col) r = col r := by
  rw [mixByte_mixByte, funext h, mixByte_one]

end

/-! ### Each transform and its inverse -/

section
variable (st : Vector Word 4)

@[simp] theorem invSubBytes_subBytes : invSubBytes (subBytes st) = st := state_ext (by simp)

@[simp] theorem subBytes_invSubBytes : subBytes (invSubBytes st) = st := state_ext (by simp)

@[simp] theorem invShiftRows_shiftRows : invShiftRows (shiftRows st) = st := state_ext (by simp)

@[simp] theorem shiftRows_invShiftRows : shiftRows (invShiftRows st) = st := state_ext (by simp)

/-- InvMixColumns undoes MixColumns, as the product of the matrices is the identity (R205). -/
@[simp] theorem invMixColumns_mixColumns : invMixColumns (mixColumns st) = st := by
  apply state_ext
  intro r c
  simp only [grid_invMixColumns, grid_mixColumns]
  exact mixByte_mixByte_of_inverse mixCoeff invMixCoeff _ r (by decide +kernel)

/-- MixColumns undoes InvMixColumns, as the matrices commute (R205). -/
@[simp] theorem mixColumns_invMixColumns : mixColumns (invMixColumns st) = st := by
  apply state_ext
  intro r c
  simp only [grid_invMixColumns, grid_mixColumns]
  exact mixByte_mixByte_of_inverse invMixCoeff mixCoeff _ r (by decide +kernel)

/-- Adding a round key twice cancels it (R204). -/
@[simp] theorem addRoundKey_addRoundKey (rk : Vector Word 60) (r : Nat) :
    addRoundKey rk r (addRoundKey rk r st) = st := by
  ext i hi : 1
  simp [addRoundKey]

end

/-! ### The cipher and its inverse -/

section
variable (rk : Vector Word 60) (st : Vector Word 4)

/-- The inverse middle rounds undo the middle rounds: between the two stand the SubBytes and ShiftRows
that begin the next round (R206, R207). -/
theorem invMiddleRounds_middleRounds (n : Nat) :
    invMiddleRounds rk n (shiftRows (subBytes (middleRounds rk n st))) =
      shiftRows (subBytes st) := by
  induction n with
  | zero => rfl
  | succ n ih => simp [middleRounds, invMiddleRounds, ih]

/-- The middle rounds undo the inverse middle rounds (R206, R207). -/
theorem middleRounds_invMiddleRounds (n : Nat) :
    middleRounds rk n (invSubBytes (invShiftRows (invMiddleRounds rk n st))) =
      invSubBytes (invShiftRows st) := by
  induction n generalizing st with
  | zero => rfl
  | succ n ih => simp [middleRounds, invMiddleRounds, ih]

@[simp] theorem invCipher_cipher (nr : Nat) : invCipher rk nr (cipher rk nr st) = st := by
  simp [cipher, invCipher, invMiddleRounds_middleRounds]

@[simp] theorem cipher_invCipher (nr : Nat) : cipher rk nr (invCipher rk nr st) = st := by
  simp [cipher, invCipher, middleRounds_invMiddleRounds]

end

/-! ### What each command does -/

section
variable (s : State)

@[simp] theorem exec_subb : exec .subb s = .next (complete (writeState (subBytes s.state) s)) := rfl

@[simp] theorem exec_isubb :
    exec .isubb s = .next (complete (writeState (invSubBytes s.state) s)) := rfl

@[simp] theorem exec_shr : exec .shr s = .next (complete (writeState (shiftRows s.state) s)) := rfl

@[simp] theorem exec_ishr :
    exec .ishr s = .next (complete (writeState (invShiftRows s.state) s)) := rfl

@[simp] theorem exec_mixc : exec .mixc s = .next (complete (writeState (mixColumns s.state) s)) := rfl

@[simp] theorem exec_imixc :
    exec .imixc s = .next (complete (writeState (invMixColumns s.state) s)) := rfl

@[simp] theorem exec_enc : exec .enc s = withBlock cipher s := rfl

@[simp] theorem exec_dec : exec .dec s = withBlock invCipher s := rfl

@[simp] theorem writeState_self : writeState s.state s = s := rfl

/-- Of two commands that write STATE, the second decides what is left. -/
@[simp] theorem complete_writeState_complete_writeState (st st' : Vector Word 4) :
    complete (writeState st' (complete (writeState st s))) = complete (writeState st' s) := rfl

end

section
variable {s : State} {k : KeySize} {r : Nat}

/-- ARK without a schedule (R213). -/
theorem exec_ark_of_no_schedule (h : s.ksched = none) :
    exec (.ark r) s = .next (raise .noKeySchedule s) := by
  simp [exec, execArk, h, fail_eq]

/-- ARK above the last round (R213). -/
theorem exec_ark_of_gt (h : s.ksched = some k) (hr : k.nr < r) :
    exec (.ark r) s = .next (raise .badRound s) := by
  simp [exec, execArk, h, hr, fail_eq]

/-- ARK with a legal round (R213). -/
theorem exec_ark_of_le (h : s.ksched = some k) (hr : r ≤ k.nr) :
    exec (.ark r) s = .next (complete (writeState (addRoundKey s.rk r s.state) s)) := by
  simp [exec, execArk, h, Nat.not_lt.2 hr, succeed_eq]

variable (f : Vector Word 60 → Nat → Vector Word 4 → Vector Word 4)

/-- ENC and DEC with another block length (R217, R218). -/
theorem withBlock_of_blklen_ne (h : s.blklen ≠ 16) :
    withBlock f s = .next (raise .invalidBlockLength s) := if_pos h

/-- ENC and DEC without a schedule (R217, R218). -/
theorem withBlock_of_no_schedule (hb : s.blklen = 16) (h : s.ksched = none) :
    withBlock f s = .next (raise .noKeySchedule s) := by
  simp [withBlock, hb, h, fail_eq]

/-- ENC and DEC with a block and a schedule (R217, R218). -/
theorem withBlock_of_schedule (hb : s.blklen = 16) (h : s.ksched = some k) :
    withBlock f s = .next (complete (writeState (f s.rk k.nr s.state) s)) := by
  simp [withBlock, hb, h, succeed_eq]

end

/-- Every key length of R173 has its variant. -/
theorem exists_keySizeOf_of_mem {kl : Byte} (h : kl ∈ ([16, 24, 32] : List Byte)) :
    ∃ k, keySizeOf kl = some k := by
  simp only [List.mem_cons, List.not_mem_nil, or_false] at h
  rcases h with rfl | rfl | rfl
  exacts [⟨.aes128, rfl⟩, ⟨.aes192, rfl⟩, ⟨.aes256, rfl⟩]

/-! ### The block commands as runs of round commands -/

section
variable {s : State} {k : KeySize} {n : Nat} (h : s.ksched = some k)
include h

/-- The commands of the middle rounds leave the STATE of `middleRounds` to those after them (R206). -/
theorem runCommands_middleRounds (hn : n ≤ k.nr) (st : Vector Word 4) (rest : List Instr) :
    runCommands ((List.range n).flatMap (fun r => [.subb, .shr, .mixc, .ark (r + 1)]) ++ rest)
        (complete (writeState st s)) =
      runCommands rest (complete (writeState (middleRounds s.rk n st) s)) := by
  induction n generalizing rest with
  | zero => rfl
  | succ n ih =>
    rw [List.range_succ, List.flatMap_append, List.append_assoc, ih (by omega)]
    simp [runCommands, exec_ark_of_le (k := k), h, hn, middleRounds]

/-- The commands of the inverse middle rounds leave the STATE of `invMiddleRounds` to those after them
(R207). -/
theorem runCommands_invMiddleRounds (hn : n ≤ k.nr) (st : Vector Word 4) (rest : List Instr) :
    runCommands ((List.range n).reverse.flatMap (fun r => [.ishr, .isubb, .ark (r + 1), .imixc]) ++
        rest) (complete (writeState st s)) =
      runCommands rest (complete (writeState (invMiddleRounds s.rk n st) s)) := by
  induction n generalizing st with
  | zero => rfl
  | succ n ih =>
    rw [List.range_succ, List.reverse_concat]
    simp [runCommands, exec_ark_of_le (k := k), h, hn, invMiddleRounds, ih (Nat.le_of_succ_le hn)]

/-- The round commands of R206 run the cipher. -/
theorem runCommands_encCommands :
    runCommands (encCommands k.nr) s =
      .next (complete (writeState (cipher s.rk k.nr s.state) s)) := by
  simp [encCommands, runCommands, exec_ark_of_le (k := k), h, runCommands_middleRounds, cipher]

/-- The round commands of R207 run the inverse cipher. -/
theorem runCommands_decCommands :
    runCommands (decCommands k.nr) s =
      .next (complete (writeState (invCipher s.rk k.nr s.state) s)) := by
  simp [decCommands, runCommands, exec_ark_of_le (k := k), h, runCommands_invMiddleRounds, invCipher]

end

end Sys2Proof.Machine

/-! ## The statements of 45_round_transform.md -/

namespace Sys2Proof.Proofs

open Sys2Proof.Machine Sys2Proof.Safety

/-- Settles O33: SUBB and ISUBB write the S-box of each byte, which the tables give. -/
theorem subbAndIsubbSubstituteBytes : Obligations.SubbAndIsubbSubstituteBytes :=
  ⟨decode_encode (i := .subb) rfl, decode_encode (i := .isubb) rfl,
    fun s => ⟨_, exec_subb s, fun r c => by rw [grid_subBytes, sbox_eq_table]⟩,
    fun s => ⟨_, exec_isubb s, fun r c => by rw [grid_invSubBytes, isbox_eq_table]⟩⟩

/-- Settles O34: addition of columns in `Fin 4` is the addition modulo 4 of R202. -/
theorem shrAndIshrShiftRows : Obligations.ShrAndIshrShiftRows := by
  refine ⟨decode_encode (i := .shr) rfl, decode_encode (i := .ishr) rfl,
    fun s => ⟨_, exec_shr s, fun r c c' h => ?_⟩, fun s => ⟨_, exec_ishr s, fun r c c' h => ?_⟩⟩
  · have hc' : c' = c + r := Fin.ext h
    rw [grid_shiftRows, hc']
  · have hc : c = c' + r := Fin.ext h
    rw [grid_invShiftRows, hc, add_sub_cancel_right]

/-- Settles O35: the entries `m[(k - r) mod 4]` of the matrix are the coefficients of row `r`. -/
theorem mixcMultipliesColumns : Obligations.MixcMultipliesColumns :=
  ⟨decode_encode (i := .mixc) rfl, fun s => ⟨_, exec_mixc s, fun c =>
    ⟨grid_mixColumns _ 0 c, grid_mixColumns _ 1 c, grid_mixColumns _ 2 c, grid_mixColumns _ 3 c⟩⟩⟩

/-- Settles O36: the entries `m'[(k - r) mod 4]` of the matrix are the coefficients of row `r`. -/
theorem imixcMultipliesColumns : Obligations.ImixcMultipliesColumns :=
  ⟨decode_encode (i := .imixc) rfl, fun s => ⟨_, exec_imixc s, fun c =>
    ⟨grid_invMixColumns _ 0 c, grid_invMixColumns _ 1 c, grid_invMixColumns _ 2 c,
      grid_invMixColumns _ 3 c⟩⟩⟩

/-- Settles O37: the two transforms of each pair cancel, and only the success completion is left. -/
theorem stateTransformsInvert : Obligations.StateTransformsInvert := by
  intro s f g hpair
  change runCommands [f, g] s = .next (complete s)
  simp only [List.mem_cons, Prod.mk.injEq, List.not_mem_nil, or_false] at hpair
  rcases hpair with ⟨rfl, rfl⟩ | ⟨rfl, rfl⟩ | ⟨rfl, rfl⟩ | ⟨rfl, rfl⟩ | ⟨rfl, rfl⟩ | ⟨rfl, rfl⟩
  all_goals simp [runCommands]

/-- Settles O38: the round key of a legal round lies in the round-key RAM. -/
theorem arkAddsTheRoundKey : Obligations.ArkAddsTheRoundKey := by
  refine ⟨fun imm => ?_, fun s r hk => ?_, fun s r hk hr => ?_, fun s r hk hr => ?_⟩
  · obtain ⟨hop, hmid, himm⟩ := Laws.CommandFields.fields_of_append 0x53#8 imm
    rw [decode_of_ark_fields hop hmid, himm]
  · exact exec_ark_of_no_schedule ((ksv_eq_false_iff s).1 hk)
  · obtain ⟨k, hk⟩ := (ksv_eq_true_iff s).1 hk
    exact exec_ark_of_gt hk (nr_of_ksched hk ▸ hr)
  · have hle := nr_le s
    obtain ⟨k, hk⟩ := (ksv_eq_true_iff s).1 hk
    refine ⟨_, exec_ark_of_le hk (nr_of_ksched hk ▸ hr), fun c => ?_⟩
    have hlt : 4 * r + c.val < 60 := by omega
    refine ⟨hlt, ?_⟩
    rw [← rkWord_of_lt s.rk hlt]
    exact Vector.getElem_ofFn _

/-- Settles O39: the second ARK adds the same round key, which cancels. -/
theorem arkTwiceIsIdentity : Obligations.ArkTwiceIsIdentity := by
  intro s r hk hr
  obtain ⟨k, hk⟩ := (ksv_eq_true_iff s).1 hk
  have hr' : r ≤ k.nr := nr_of_ksched hk ▸ hr
  change runCommands [.ark r, .ark r] s = .next (complete s)
  simp [runCommands, exec_ark_of_le (k := k), hk, hr']

/-- Settles O40: ENC and the commands of R206 both leave the STATE of `cipher`. -/
theorem encIsItsRoundCommands : Obligations.EncIsItsRoundCommands := by
  refine ⟨decode_encode (i := .enc) rfl, fun s => withBlock_of_blklen_ne cipher, fun s hb hk => ?_,
    fun s k hb hk => ?_⟩
  · exact withBlock_of_no_schedule cipher hb ((ksv_eq_false_iff s).1 hk)
  · rw [exec_enc, withBlock_of_schedule cipher hb hk, runCommands_encCommands hk]
    exact ⟨rfl, _, rfl⟩

/-- Settles O41: DEC and the commands of R207 both leave the STATE of `invCipher`. -/
theorem decIsItsRoundCommands : Obligations.DecIsItsRoundCommands := by
  refine ⟨decode_encode (i := .dec) rfl, fun s => withBlock_of_blklen_ne invCipher,
    fun s hb hk => ?_, fun s k hb hk => ?_⟩
  · exact withBlock_of_no_schedule invCipher hb ((ksv_eq_false_iff s).1 hk)
  · rw [exec_dec, withBlock_of_schedule invCipher hb hk, runCommands_decCommands hk]
    exact ⟨rfl, _, rfl⟩

/-- Settles O42: after KEXP there is a schedule, under which `cipher` and `invCipher` undo each
other. -/
theorem encryptDecryptRoundTrip : Obligations.EncryptDecryptRoundTrip := by
  intro s hkl hb
  obtain ⟨k, hk⟩ := exists_keySizeOf_of_mem hkl
  let t := complete (writeSchedule k s)
  have hsched : t.ksched = some k := rfl
  have hblock : t.blklen = 16 := hb
  refine ⟨t, complete t, complete t, execKexp_of_keySize hk, ?_, ?_, rfl, rfl, rfl, rfl⟩
  all_goals simp [runCommands, withBlock_of_schedule (k := k), hsched, hblock]

end Sys2Proof.Proofs

/-! ## The statements of 46_engine_control.md -/

namespace Sys2Proof.Machine

/-- NOP writes no register and has no failing case (R240). -/
theorem exec_nop (s : State) : exec .nop s = .next (complete s) := rfl

end Sys2Proof.Machine

namespace Sys2Proof.Proofs

open Sys2Proof.Machine

/-- Settles O13: NOP is the success completion alone. -/
theorem nopOnlyCompletes : Obligations.NopOnlyCompletes :=
  ⟨decode_encode (i := .nop) rfl, exec_nop⟩

end Sys2Proof.Proofs

/-! ## Rules about completions

That every step has a next state, and which error each command reports: what the statements of
60_exceptions.md rest on. -/

namespace Sys2Proof.Machine

open Sys2Proof.Safety

/-! ### No step stops -/

/-- An idle engine stays as it is, and every completion is a next state (R250, R266). -/
theorem engineTurn_next (s : State) : ∃ t, engineTurn s = .next t := by
  cases hb : s.busy with
  | false => exact ⟨s, engineTurn_of_idle hb⟩
  | true =>
    rw [engineTurn_of_busy hb]
    exact completeCommand_next s

/-- Neither agent's turn stops the machine (R53, R250). -/
theorem step_next (s : State) : ∃ t, step s = .next t := by
  rcases step_cases s with ⟨_, h⟩ | ⟨_, _, h⟩ | ⟨_, _, _, h⟩ <;> rw [h]
  · exact engineTurn_next _
  · exact engineTurn_next _
  · exact ⟨_, rfl⟩

/-! ### The error that each command reports -/

/-- The error that ENC and DEC report, in the order of R255. -/
def blockErrorOf (s : State) : Option EngineError :=
  if s.blklen ≠ 16 then some .invalidBlockLength
  else if s.ksv = false then some .noKeySchedule
  else none

/-- The error that a decoded command reports: the table of R251 read by command, in the order of
R255. -/
def errorOf (s : State) : Instr → Option EngineError
  | .pmod => if s.opb = 0 then some .divisionByZero else none
  | .pcoef idx => if idx < 0 then some .invalidIndex else none
  | .rcon j => if j = 0 then some .invalidIndex else none
  | .kexp =>
    if s.keylen ≠ 16 ∧ s.keylen ≠ 24 ∧ s.keylen ≠ 32 then some .invalidKeyLength else none
  | .ark r =>
    if s.ksv = false then some .noKeySchedule
    else if s.nr < r then some .badRound
    else none
  | .enc | .dec => blockErrorOf s
  | _ => none

section
variable {s : State} {i : Instr} {e : EngineError}

theorem withBlock_reports (f : Vector Word 60 → Nat → Vector Word 4 → Vector Word 4) (s : State) :
    ∃ t, withBlock f s = .next t ∧ t.lastErr = blockErrorOf s := by
  rcases withBlock_cases f s with ⟨hb, h⟩ | ⟨hb, hk, h⟩ | ⟨k, hb, hk, h⟩
  · exact ⟨_, h, (if_pos hb).symm⟩
  · exact ⟨_, h, by simp [blockErrorOf, hb, State.ksv, hk]⟩
  · exact ⟨_, h, by simp [blockErrorOf, hb, State.ksv, hk]⟩

/-- A completion's LASTERR is the error of its command, and 0 when there is none (R253, R254). -/
theorem exec_reports (i : Instr) (s : State) :
    ∃ t, exec i s = .next t ∧ t.lastErr = errorOf s i := by
  cases i with
  | pmod =>
    by_cases h : s.opb = 0
    · exact ⟨_, exec_pmod_of_zero h, (if_pos h).symm⟩
    · exact ⟨_, exec_pmod_of_ne_zero h, (if_neg h).symm⟩
  | pcoef idx =>
    by_cases h : idx < 0
    · exact ⟨_, exec_pcoef_of_neg h, (if_pos h).symm⟩
    · have hnone : errorOf s (.pcoef idx) = none := if_neg h
      obtain ⟨n, rfl⟩ := Int.eq_ofNat_of_zero_le (not_lt.1 h)
      exact ⟨_, exec_pcoef_natCast n, hnone.symm⟩
  | rcon j =>
    by_cases h : j = 0
    · exact ⟨_, if_pos h, (if_pos h).symm⟩
    · exact ⟨_, if_neg h, (if_neg h).symm⟩
  | kexp =>
    cases hk : keySizeOf s.keylen with
    | none =>
      exact ⟨_, execKexp_of_no_keySize hk, (if_pos ((keySizeOf_eq_none_iff _).1 hk)).symm⟩
    | some k =>
      have hlen := mt (keySizeOf_eq_none_iff _).2 (hk ▸ Option.some_ne_none k)
      exact ⟨_, execKexp_of_keySize hk, (if_neg hlen).symm⟩
  | ark r =>
    cases hk : s.ksched with
    | none => exact ⟨_, exec_ark_of_no_schedule hk, (if_pos ((ksv_eq_false_iff s).2 hk)).symm⟩
    | some k =>
      rcases lt_or_ge k.nr r with hr | hr
      · exact ⟨_, exec_ark_of_gt hk hr, by simp [errorOf, State.ksv, State.nr, hk, hr]⟩
      · exact ⟨_, exec_ark_of_le hk hr, by simp [errorOf, State.ksv, State.nr, hk, hr.not_gt]⟩
  | enc => exact withBlock_reports cipher s
  | dec => exact withBlock_reports invCipher s
  | _ => exact ⟨_, rfl, rfl⟩

/-! ### The causes of R251 -/

theorem not_illegal_of_decode (hd : decode s.cmd = .ok i) : ¬ ErrorCause s .illegalCommand :=
  fun h => h _ (rowOf_mem_opcodeTable i) (matches_rowOf_of_decode hd)

/-- The block commands report a listed cause: InvalidBlockLength stands before NoKeySchedule. -/
theorem errorCause_of_blockErrorOf (hd : decode s.cmd = .ok .enc ∨ decode s.cmd = .ok .dec)
    (h : blockErrorOf s = some e) : ErrorCause s e := by
  unfold blockErrorOf at h
  split_ifs at h with hb hk <;> cases h
  · exact ⟨hd, hb⟩
  · exact ⟨hk, .inr ⟨hd, not_not.1 hb⟩⟩

/-- What a command reports has a listed cause. -/
theorem errorCause_of_errorOf (hd : decode s.cmd = .ok i) (h : errorOf s i = some e) :
    ErrorCause s e := by
  cases i with
  | pmod =>
    obtain ⟨hz, ⟨⟩⟩ := Option.ite_none_right_eq_some.1 h
    exact ⟨hd, hz⟩
  | pcoef idx =>
    obtain ⟨hneg, ⟨⟩⟩ := Option.ite_none_right_eq_some.1 h
    exact .inl ⟨idx, hd, hneg⟩
  | rcon j =>
    obtain ⟨rfl, ⟨⟩⟩ := Option.ite_none_right_eq_some.1 h
    exact .inr hd
  | kexp =>
    obtain ⟨hlen, ⟨⟩⟩ := Option.ite_none_right_eq_some.1 h
    exact ⟨hd, hlen⟩
  | ark r =>
    rw [errorOf] at h
    split_ifs at h with hk hr <;> cases h
    · exact ⟨hk, .inl ⟨r, hd⟩⟩
    · exact ⟨Bool.eq_true_of_not_eq_false hk, r, hd, hr⟩
  | enc => exact errorCause_of_blockErrorOf (.inl hd) h
  | dec => exact errorCause_of_blockErrorOf (.inr hd) h
  | _ => cases h

/-- A listed cause names the command in flight, which reports it. -/
theorem errorOf_of_errorCause (hd : decode s.cmd = .ok i) (h : ErrorCause s e) :
    errorOf s i = some e := by
  cases e with
  | invalidCoefficient => exact h.elim
  | invalidIndex =>
    rcases h with ⟨idx, hd', hneg⟩ | hd' <;> cases hd.symm.trans hd'
    · exact if_pos hneg
    · rfl
  | divisionByZero =>
    obtain ⟨hd', hz⟩ := h
    cases hd.symm.trans hd'
    exact if_pos hz
  | invalidKeyLength =>
    obtain ⟨hd', hlen⟩ := h
    cases hd.symm.trans hd'
    exact if_pos hlen
  | invalidBlockLength =>
    obtain ⟨hd' | hd', hb⟩ := h <;> cases hd.symm.trans hd'
    all_goals exact if_pos hb
  | illegalCommand => exact absurd h (not_illegal_of_decode hd)
  | noKeySchedule =>
    obtain ⟨hk, ⟨r, hd'⟩ | ⟨hd' | hd', hb⟩⟩ := h <;> cases hd.symm.trans hd'
    · exact if_pos hk
    all_goals exact (if_neg (not_not.2 hb)).trans (if_pos hk)
  | badRound =>
    obtain ⟨hk, r, hd', hr⟩ := h
    cases hd.symm.trans hd'
    exact (if_neg (by simp [hk])).trans (if_pos hr)

/-- A word that does not decode matches no row, and no other cause holds of it (R76, R255). -/
theorem errorCause_iff_of_decode_error {why : DecodeReject} (hd : decode s.cmd = .error why) :
    ErrorCause s e ↔ e = .illegalCommand := by
  constructor
  · intro h
    cases e with
    | illegalCommand => rfl
    | _ => simp [ErrorCause, hd] at h
  · rintro rfl row hrow hmatch
    obtain ⟨i, hi, _⟩ := exists_decode_of_row hrow hmatch
    cases hd.symm.trans hi

/-- The completion of the word in flight reports the error whose cause holds (R251, R255). -/
theorem completeCommand_reports (s : State) :
    ∃ t, completeCommand s = .next t ∧ ∀ e, t.lastErr = some e ↔ ErrorCause s e := by
  rcases completeCommand_cases s with ⟨i, hd, h⟩ | ⟨why, hd, h⟩
  · obtain ⟨t, ht, hle⟩ := exec_reports i s
    exact ⟨t, h.trans ht, fun e =>
      hle ▸ ⟨errorCause_of_errorOf hd, errorOf_of_errorCause hd⟩⟩
  · refine ⟨_, h, fun e => ?_⟩
    rw [errorCause_iff_of_decode_error hd, raise_lastErr, Option.some_inj]
    exact eq_comm

end

/-- The commands of R252 have no row in the table of R251. -/
theorem errorOf_of_unlisted (s : State) :
    ∀ i ∈ ([.nop, .padd, .pmul, .pdeg, .gadd, .gmul, .ginv, .sbox, .isbox, .aff, .iaff, .rotw, .subw,
      .subb, .shr, .mixc, .isubb, .ishr, .imixc] : List Instr), errorOf s i = none := by
  simp [errorOf]

end Sys2Proof.Machine

/-! ## The statements of 60_exceptions.md -/

namespace Sys2Proof.Proofs

open Sys2Proof.Machine Sys2Proof.Safety

/-- Settles O7, by induction on the number of steps. -/
theorem everyRunIsSafe : Obligations.EveryRunIsSafe := by
  intro n
  induction n with
  | zero => exact fun s => ⟨s, rfl⟩
  | succ n ih =>
    intro s
    obtain ⟨t, ht⟩ := step_next s
    rw [SafeRun, run_succ_of_step ht]
    exact ih t

/-- Settles O8: a success completion follows writes to RESL, RESH, STATE, RK and the descriptor
alone. -/
theorem everyCommandEndsInOneCompletion : Obligations.EveryCommandEndsInOneCompletion := by
  intro i s
  rcases exec_cases i s with ⟨e, h⟩ | ⟨_, _, _, _, _, h⟩
  · exact ⟨_, h, .inr ⟨e, rfl⟩⟩
  · exact ⟨_, h, .inl ⟨rfl, rfl, rfl, rfl, rfl, rfl, rfl, rfl, rfl, rfl, rfl, rfl, rfl⟩⟩

/-- Settles O9: with no turn left and a command in flight, the step is its completion. -/
theorem completionReportsTheListedError : Obligations.CompletionReportsTheListedError := by
  refine ⟨fun s t e hb hs h => ?_, rfl, rfl, rfl, rfl, rfl, rfl, rfl, rfl, rfl⟩
  rw [step_of_nil hs, engineTurn_of_busy hb] at h
  obtain ⟨u, hu, hcause⟩ := completeCommand_reports s
  cases h.symm.trans hu
  exact hcause e

/-- Settles O10: an error completion would report an error that R251 does not list for the command. -/
theorem unlistedCommandsNeverFail : Obligations.UnlistedCommandsNeverFail := by
  intro i hi s
  obtain ⟨t, ht, hle⟩ := exec_reports i s
  rw [errorOf_of_unlisted s i hi] at hle
  rcases exec_cases i s with ⟨e, h⟩ | ⟨_, _, _, _, _, h⟩ <;> cases ht.symm.trans h
  · cases hle
  · exact ⟨_, h, rfl, rfl⟩

end Sys2Proof.Proofs

/-! ## Rules about reset and the hidden round-key RAM

What the round-key RAM holds while KSV = 0 reaches no register and no answer, and what becomes of a
command in flight: what the statements of 70_reset_and_hazards.md rest on. -/

namespace Sys2Proof.Safety

open Sys2Proof.Machine

/-! ### States that differ in a hidden RAM -/

/-- `s` with other words in the round-key RAM. -/
def withRam (rk : Vector Word 60) (s : State) : State := { s with rk := rk }

section
variable {s s' : State} (rk : Vector Word 60)

theorem SameButHiddenRam.refl (s : State) : SameButHiddenRam s s := ⟨rfl, fun _ => rfl⟩

/-- While KSV = 0 the RAM may hold any words. -/
theorem sameButHiddenRam_withRam (hk : s.ksched = none) : SameButHiddenRam s (withRam rk s) :=
  ⟨rfl, fun h => absurd hk h⟩

/-- Two related states are the same one, or differ in a RAM that holds no schedule. -/
theorem SameButHiddenRam.eq_or_hidden (h : SameButHiddenRam s s') :
    s' = s ∨ s.ksched = none ∧ ∃ rk, s' = withRam rk s := by
  obtain ⟨hsame, hheld⟩ := h
  by_cases hk : s.ksched = none
  · exact .inr ⟨hk, s'.rk, hsame⟩
  · rw [hheld hk] at hsame
    exact .inl hsame

/-- KSV = 0 hides the RAM from every register read (R33). -/
theorem readReg_withRam (hk : s.ksched = none) (reg : WindowReg) :
    readReg reg (withRam rk s) = readReg reg s := by
  have hksv : s.ksv = false := (ksv_eq_false_iff s).2 hk
  have hksv' : (withRam rk s).ksv = false := hksv
  cases reg with
  | rkw i => simp [readReg, hksv, hksv']
  | _ => rfl

theorem SameButHiddenRam.readReg_eq (h : SameButHiddenRam s s') (reg : WindowReg) :
    readReg reg s' = readReg reg s := by
  rcases h.eq_or_hidden with rfl | ⟨hk, rk, rfl⟩
  · rfl
  · exact readReg_withRam rk hk reg

theorem SameButHiddenRam.responses_eq (h : SameButHiddenRam s s') : s'.responses = s.responses :=
  h.same_but_rk ▸ rfl

theorem SameButHiddenRam.ksched_eq (h : SameButHiddenRam s s') : s'.ksched = s.ksched :=
  h.same_but_rk ▸ rfl

end

/-! ### Commands, turns and runs of two such states -/

/-- Both outcomes are next states, and equal but for a hidden RAM. -/
def SameOutcome (o o' : Host.Outcome State Fault Refusal) : Prop :=
  ∃ t t', o = .next t ∧ o' = .next t' ∧ SameButHiddenRam t t'

namespace SameOutcome
variable {s : State} (rk : Vector Word 60)

theorem fail_withRam (hk : s.ksched = none) (e : EngineError) :
    SameOutcome (fail e s) (fail e (withRam rk s)) :=
  ⟨_, _, rfl, rfl, sameButHiddenRam_withRam rk hk⟩

theorem succeed_withRam (hk : s.ksched = none) :
    SameOutcome (succeed s) (succeed (withRam rk s)) :=
  ⟨_, _, rfl, rfl, sameButHiddenRam_withRam rk hk⟩

/-- Two outcomes that branch on the same condition. -/
theorem ite {p : Prop} [Decidable p] {a b a' b' : Host.Outcome State Fault Refusal}
    (ha : SameOutcome a a') (hb : SameOutcome b b') :
    SameOutcome (if p then a else b) (if p then a' else b') := by
  split
  · exact ha
  · exact hb

end SameOutcome

section
variable {s s' : State} (rk : Vector Word 60)

/-- ENC and DEC fail without a schedule, so they read no RAM (R217, R218). -/
theorem withBlock_withRam (hk : s.ksched = none)
    (f : Vector Word 60 → Nat → Vector Word 4 → Vector Word 4) :
    SameOutcome (withBlock f s) (withBlock f (withRam rk s)) := by
  by_cases hb : s.blklen = 16
  · rw [withBlock_of_no_schedule f hb hk, withBlock_of_no_schedule (s := withRam rk s) f hb hk]
    exact .fail_withRam rk hk _
  · rw [withBlock_of_blklen_ne f hb, withBlock_of_blklen_ne (s := withRam rk s) f hb]
    exact .fail_withRam rk hk _

/-- While KSV = 0, KEXP overwrites the whole RAM from KEY alone (R183), and no other command reads or
writes it. -/
theorem exec_withRam (hk : s.ksched = none) (i : Instr) :
    SameOutcome (exec i s) (exec i (withRam rk s)) := by
  cases i with
  | pmod => exact .ite (.fail_withRam rk hk _) (.succeed_withRam rk hk)
  | pcoef idx =>
    exact .ite (.fail_withRam rk hk _) (.ite (.succeed_withRam rk hk) (.succeed_withRam rk hk))
  | rcon j => exact .ite (.fail_withRam rk hk _) (.succeed_withRam rk hk)
  | kexp =>
    cases hlen : keySizeOf s.keylen with
    | none =>
      rw [exec, exec, execKexp_of_no_keySize hlen, execKexp_of_no_keySize (s := withRam rk s) hlen]
      exact .fail_withRam rk hk _
    | some k =>
      exact ⟨_, _, execKexp_of_keySize hlen, execKexp_of_keySize (s := withRam rk s) hlen, .refl _⟩
  | ark r =>
    rw [exec_ark_of_no_schedule hk, exec_ark_of_no_schedule (s := withRam rk s) hk]
    exact .fail_withRam rk hk _
  | enc => exact withBlock_withRam rk hk cipher
  | dec => exact withBlock_withRam rk hk invCipher
  | _ => exact .succeed_withRam rk hk

theorem completeCommand_withRam (hk : s.ksched = none) :
    SameOutcome (completeCommand s) (completeCommand (withRam rk s)) := by
  have hcmd : fetchWord (withRam rk s) = fetchWord s := rfl
  rw [completeCommand, completeCommand, hcmd]
  cases decode (fetchWord s) with
  | ok i => exact exec_withRam rk hk i
  | error _ => exact .fail_withRam rk hk _

theorem engineTurn_withRam (hk : s.ksched = none) :
    SameOutcome (engineTurn s) (engineTurn (withRam rk s)) :=
  .ite (completeCommand_withRam rk hk) ⟨_, _, rfl, rfl, sameButHiddenRam_withRam rk hk⟩

theorem writeReg_withRam (reg : WindowReg) (d : Word) :
    writeReg reg d (withRam rk s) = withRam rk (writeReg reg d s) := by
  cases reg <;> rfl

/-- A host access is answered alike whatever a hidden RAM holds (R33, R54). -/
theorem hostAccess_withRam (hk : s.ksched = none) (a : HostAccess) :
    hostAccess a (withRam rk s) = withRam rk (hostAccess a s) := by
  have hbusy : (withRam rk s).busy = s.busy := rfl
  cases a with
  | read width off =>
    rw [hostAccess, hostAccess, hostRead, hostRead]
    cases legalTarget width off with
    | none => rfl
    | some reg =>
      dsimp only
      rw [readReg_withRam rk hk, hbusy, apply_ite (withRam rk)]
      rfl
  | write width off d =>
    rw [hostAccess, hostAccess, hostWrite, hostWrite]
    cases legalTarget width off with
    | none => rfl
    | some reg =>
      dsimp only
      rw [writeReg_withRam, hbusy, apply_ite (withRam rk)]
      rfl

theorem hostAccess_sameOutcome (hk : s.ksched = none) (a : HostAccess) :
    SameOutcome (.next (hostAccess a s)) (.next (hostAccess a (withRam rk s))) := by
  obtain ⟨_, _, ha, _, _, _, hks, _⟩ := hostAccess_answers a s
  have hk' : (hostAccess a s).ksched = none := by rw [ha, respond_ksched, hks, hk]
  exact ⟨_, _, rfl, rfl, hostAccess_withRam rk hk a ▸ sameButHiddenRam_withRam rk hk'⟩

/-- The step behind R283: both agents' turns keep a hidden RAM hidden. -/
theorem SameButHiddenRam.step_sameOutcome (h : SameButHiddenRam s s') :
    SameOutcome (step s) (step s') := by
  rcases h.eq_or_hidden with rfl | ⟨hk, rk, rfl⟩
  · obtain ⟨t, ht⟩ := step_next s'
    exact ⟨t, t, ht, ht, .refl t⟩
  · match hsched : s.schedule with
    | [] =>
      rw [step_of_nil hsched, step_of_nil (s := withRam rk s) hsched]
      exact engineTurn_withRam rk hk
    | .engine :: rest =>
      rw [step_of_engine hsched, step_of_engine (s := withRam rk s) hsched]
      exact engineTurn_withRam (s := { s with schedule := rest }) rk hk
    | .host a :: rest =>
      rw [step_of_host hsched, step_of_host (s := withRam rk s) hsched]
      exact hostAccess_sameOutcome (s := { s with schedule := rest }) rk hk a

/-- So does a run, by induction on its length. -/
theorem SameButHiddenRam.run_sameOutcome (h : SameButHiddenRam s s') (n : Nat) :
    SameOutcome (run n s) (run n s') := by
  induction n generalizing s s' with
  | zero => exact ⟨s, s', rfl, rfl, h⟩
  | succ n ih =>
    obtain ⟨t, t', ht, ht', hsame⟩ := h.step_sameOutcome
    rw [run_succ_of_step ht, run_succ_of_step ht']
    exact ih hsame

/-! ### The command in flight -/

/-- Either completion drops BUSY and keeps CMD (R253, R254). -/
theorem completeCommand_ends (s : State) :
    ∃ t, completeCommand s = .next t ∧ t.busy = false ∧ t.cmd = s.cmd := by
  rcases completeCommand_cases s with ⟨i, _, h⟩ | ⟨_, _, h⟩
  · rcases exec_cases i s with ⟨e, hx⟩ | ⟨_, _, _, _, _, hx⟩
    · exact ⟨_, h.trans hx, rfl, rfl⟩
    · exact ⟨_, h.trans hx, rfl, rfl⟩
  · exact ⟨_, h, rfl, rfl⟩

/-- A host access keeps the command in flight (R61). -/
theorem step_of_host_busy {a : HostAccess} {rest : List Turn} (hb : s.busy = true)
    (h : s.schedule = .host a :: rest) :
    ∃ t, step s = .next t ∧ t.busy = true ∧ t.cmd = s.cmd ∧ t.schedule = rest := by
  obtain ⟨_, _, _, ha⟩ := hostAccess_busy (s := { s with schedule := rest }) a hb
  exact ⟨_, (step_of_host h).trans (congrArg _ ha), hb, rfl, rfl⟩

/-! ### After reset -/

/-- Every register but ID reads 0 after reset (R40, R281). -/
theorem readReg_resetWith {reg : WindowReg} (h : reg ≠ .id) :
    readReg reg (State.resetWith rk) = 0 := by
  have hhidden : readReg reg (State.resetWith rk) = readReg reg State.reset :=
    readReg_withRam (s := State.reset) rk rfl reg
  rw [hhidden]
  cases reg with
  | id => exact absurd rfl h
  | state c => exact Vector.getElem_replicate c.isLt
  | key k => exact Vector.getElem_replicate k.isLt
  | rkw _ => rfl
  | _ => decide

end

end Sys2Proof.Safety

/-! ## The statements of 70_reset_and_hazards.md -/

namespace Sys2Proof.Proofs

open Sys2Proof.Machine Sys2Proof.Safety

/-- Settles O60: without a schedule no turn reads the RAM, and the states are equal with one. -/
theorem stepKeepsSameButHiddenRam : Obligations.StepKeepsSameButHiddenRam := by
  intro s s' h
  obtain ⟨t, t', ht, ht', hsame⟩ := h.step_sameOutcome
  exact ⟨t, t', ht, ht', hsame, hsame.responses_eq, hsame.readReg_eq⟩

/-- Settles O55: the two reset states differ in a hidden RAM, and so do the states after the runs. -/
theorem resetRamIsUnobservable : Obligations.ResetRamIsUnobservable := by
  intro n turns rk₁ rk₂
  have hreset : SameButHiddenRam ((State.resetWith rk₂).submit turns)
      ((State.resetWith rk₁).submit turns) := sameButHiddenRam_withRam rk₁ rfl
  obtain ⟨t₂, t₁, h₂, h₁, hsame⟩ := hreset.run_sameOutcome n
  exact ⟨t₁, t₂, h₁, h₂, hsame.same_but_rk, hsame.responses_eq, hsame.readReg_eq,
    fun hk => hsame.same_rk_once_held (hsame.ksched_eq ▸ hk)⟩

/-- Settles O56, by induction on the turns left: a host's turn keeps the command in flight, and the
engine's, or the end of the schedule, completes it. -/
theorem acceptedCommandCompletes : Obligations.AcceptedCommandCompletes := by
  intro s hb
  induction hsched : s.schedule generalizing s with
  | nil =>
    obtain ⟨t, ht, hend⟩ := completeCommand_ends s
    exact ⟨0, s, t, le_rfl, rfl, hb, rfl,
      (step_of_nil hsched).trans ((engineTurn_of_busy hb).trans ht), hend⟩
  | cons turn rest ih =>
    cases turn with
    | engine =>
      have hturn := engineTurn_of_busy (s := { s with schedule := rest }) hb
      obtain ⟨t, ht, hend⟩ := completeCommand_ends { s with schedule := rest }
      exact ⟨0, s, t, Nat.zero_le _, rfl, hb, rfl,
        (step_of_engine hsched).trans (hturn.trans ht), hend⟩
    | host a =>
      obtain ⟨s₁, hstep, hb₁, hcmd, hrest⟩ := step_of_host_busy hb hsched
      obtain ⟨n, u, t, hn, hrun, hend⟩ := ih s₁ hb₁ hrest
      rw [hcmd] at hend
      exact ⟨n + 1, u, t, Nat.succ_le_succ hn, (run_succ_of_step hstep n).trans hrun, hend⟩

/-- Settles O51: no field but the RAM holds anything after reset, and KSV = 0 hides the RAM. -/
theorem resetRegisters : Obligations.ResetRegisters :=
  fun rkReset => ⟨rfl, fun _ h => readReg_resetWith rkReset h, rfl, rfl⟩

/-- Settles O52: a register read sees none of what `applyReset` keeps, and the engine is idle. -/
theorem resetAbandonsTheCommand : Obligations.ResetAbandonsTheCommand :=
  fun _ rkReset => ⟨fun reg => readReg_ownFields reg (State.resetWith rkReset) _ _ _,
    engineTurn_of_idle rfl⟩

/-- Settles O53: after reset no schedule is held, no error reported and no answer given. -/
theorem invAtReset : Obligations.InvAtReset := fun _ => ⟨nofun, nofun, nofun⟩

end Sys2Proof.Proofs
